-- ==== Sys2Proof/Word.lean ====
section
/-! DEFINITION. The bit-vector widths of the core (spec/00_scope.md R7, R8; spec/30_encoding.md R80). -/

namespace Sys2Proof

/-- A byte: a ROM entry, a key byte, an IV byte, a byte of a host buffer. -/
abbrev Byte := BitVec 8

/-- A 32-bit word: R1, R2, X0..X3, W, Z, STATUS (R7). -/
abbrev Word := BitVec 32

/-- A 31-bit value: an LFSR cell, the feedback v, the input u (R20, R140, R145). -/
abbrev Cell := BitVec 31

/-- A 7-bit entry of a D table (R50, R183). -/
abbrev DConst := BitVec 7

/-- The KEY port: 256 bits (R80). -/
abbrev KeyBus := BitVec 256

/-- The IVB port: 128 bits (R80). -/
abbrev IvBus := BitVec 128

/-- The CMD port: 6 bits (R80, R82). -/
abbrev CmdWord := BitVec 6

end Sys2Proof
end

