-- ==== Sys2Proof/Config.lean ====
section
/-! DEFINITION. What is fixed for the machine or left open by the spec: the modulus, the ports, and the OPEN
parameters of spec/00_scope.md R7. The S-box and D tables, which D20 calls configuration constants, stand in
Machine/Rom.lean. The spec leaves no result, flag or register undefined, so there is no free value here. -/

namespace Sys2Proof

/-- The modulus p = 2^31 - 1 = 0x7FFFFFFF (R7). -/
def Config.modulus : Nat := 2147483647

/-- The ports of the core (R80). -/
inductive Port where
  | cmd | key | ivb | z | status | rst
  deriving DecidableEq, Repr

/-- The width of each port in bits (R80). -/
def Port.width : Port → Nat
  | .cmd => 6
  | .key => 256
  | .ivb => 128
  | .z => 32
  | .status => 32
  | .rst => 1

/-- Whether the host drives the port (in) or the core does (out) (R80). -/
def Port.isInput : Port → Bool
  | .cmd => true
  | .key => true
  | .ivb => true
  | .z => false
  | .status => false
  | .rst => true

/-- The OPEN parameters of R7, arguments of a platform: the number of instances `N_CORES` (at least 1) and the bus
address a platform gives each port, `BUS_MAP` (R58: the core itself has no address map, so no rule reads it).
`ISSUE_PROTOCOL` (R81) has no observable in an untimed model and is left out (log entry 12). -/
structure Config.OpenParams where
  nCores : Nat
  nCores_pos : 0 < nCores
  busMap : Port → Nat

end Sys2Proof
end

