-- ==== Sys2Proof/Syntax.lean ====
section
/-! DEFINITION. The syntax: modes, the five commands of spec/opcode_table.json, what the host presents at a command
boundary, and the lines of the assembler (spec/30_encoding.md). -/

namespace Sys2Proof

/-- The four modes; each selects a D table at LOAD (R84). -/
inductive Mode where
  | encrypt | mac32 | mac64 | mac128
  deriving DecidableEq, Repr

/-- The commands, one constructor per row of spec/opcode_table.json. LOAD's operands are MODE, KEY and IVB (R180, R184);
no other command has an operand (R86). -/
inductive Instr where
  /-- NOP, OP 0x0 (R181). -/
  | nop
  /-- LOAD, OP 0x1 (R184). -/
  | load (mode : Mode) (key : KeyBus) (iv : IvBus)
  /-- INITR, OP 0x2 (R186). -/
  | initr
  /-- INITF, OP 0x3 (R188). -/
  | initf
  /-- GEN, OP 0x4 (R190). -/
  | gen
  deriving DecidableEq, Repr

/-- The values the host presents on the input ports at one command boundary (R80). -/
structure HostInput where
  /-- RST (R260): true when RST is asserted; the core is then reset and the command not executed (R261). Which level of
  the wire asserts it is not the model's: that true is the asserted value is a DESIGN CHOICE (N3; log entry 16). -/
  rst : Bool
  /-- CMD (R82). -/
  cmd : CmdWord
  /-- KEY, read by LOAD only (R268). -/
  key : KeyBus
  /-- IVB, read by LOAD only (R268). -/
  ivb : IvBus
  deriving DecidableEq, Repr

/-- One line of assembler source (R89, R90). Keys and IVs are hexadecimal digits, most significant first; `raw` is the
directive `.cmd`; `blank` is a line without a command, whose acceptance is a DESIGN CHOICE (log entry 14). -/
inductive AsmLine where
  | blank
  | nop
  | load (mode : Mode) (key iv : List (Fin 16))
  | initr
  | initf
  | gen
  | raw (w : Nat)
  | init
  | new (mode : Mode) (key iv : List (Fin 16))
  | genn (n : Nat)
  deriving DecidableEq, Repr

end Sys2Proof
end

