-- ==== Sys2Proof/WellFormed.lean ====
section
/-! DEFINITION. Which terms of the syntax are well formed. -/

namespace Sys2Proof

/-- Every term of `Instr` is well formed: the buses are exactly 256 and 128 bits wide and every MODE is a mode, so the
document's contract violations (wrong key length, wrong IV length, mode outside the enumeration) cannot be written
(R84, R86, U4). -/
def Instr.wf : Instr → Bool
  | .nop => true
  | .load _ _ _ => true
  | .initr => true
  | .initf => true
  | .gen => true

/-- A source line is well formed when its key has 64 hexadecimal digits, its IV 32, and the word of `.cmd` fits in
6 bits (R89). -/
def AsmLine.wf : AsmLine → Bool
  | .blank => true
  | .nop => true
  | .load _ key iv => key.length == 64 && iv.length == 32
  | .initr => true
  | .initf => true
  | .gen => true
  | .raw w => decide (w < 64)
  | .init => true
  | .new _ key iv => key.length == 64 && iv.length == 32
  | .genn _ => true

end Sys2Proof
end

