-- ==== Sys2Proof/Decode.lean ====
section
/-! DEFINITION. Decoding of what the host presents, and the encoder (spec/30_encoding.md R82-R88). -/

namespace Sys2Proof

/-- What a command word decodes to (R88): one of the five commands, or a reserved word, rejected by name. -/
inductive Decoded where
  /-- One of the five operations. -/
  | cmd (i : Instr)
  /-- A reserved word, OP 0x5..0xF, with its OP field; executing it raises CmdFault(1) (R87). -/
  | reserved (op : BitVec 4)
  deriving DecidableEq, Repr

/-- OP = CMD[3:0] (R82). -/
def opField (w : CmdWord) : BitVec 4 := w.extractLsb' 0 4

/-- MODE = CMD[5:4] (R82). -/
def modeField (w : CmdWord) : BitVec 2 := w.extractLsb' 4 2

/-- The mode a MODE field selects (R84). -/
def modeOfBits (b : BitVec 2) : Mode :=
  if b = 0 then .encrypt
  else if b = 1 then .mac32
  else if b = 2 then .mac64
  else .mac128

/-- The MODE field of a mode (R84). -/
def modeBits : Mode → BitVec 2
  | .encrypt => 0
  | .mac32 => 1
  | .mac64 => 2
  | .mac128 => 3

/-- Decoding is total and by OP alone (R83, R88); MODE, KEY and IVB are read for LOAD only (R85, R268). -/
def decode (b : HostInput) : Decoded :=
  if opField b.cmd = 0 then .cmd .nop
  else if opField b.cmd = 1 then .cmd (.load (modeOfBits (modeField b.cmd)) b.key b.ivb)
  else if opField b.cmd = 2 then .cmd .initr
  else if opField b.cmd = 3 then .cmd .initf
  else if opField b.cmd = 4 then .cmd .gen
  else .reserved (opField b.cmd)

/-- The OP value of each operation (R83). -/
def opBits : Instr → BitVec 4
  | .nop => 0
  | .load _ _ _ => 1
  | .initr => 2
  | .initf => 3
  | .gen => 4

/-- The MODE value the assembler writes: LOAD's mode, 0 elsewhere (R84, R85). -/
def modeBitsOf : Instr → BitVec 2
  | .nop => 0
  | .load m _ _ => modeBits m
  | .initr => 0
  | .initf => 0
  | .gen => 0

/-- The command word of an instruction: the string `mmoooo` (R82). -/
def encodeCmd (i : Instr) : CmdWord := modeBitsOf i ++ opBits i

/-- What the host presents to issue an instruction. KEY and IVB have no effect outside LOAD (R268) and are 0 there. -/
def encode (i : Instr) : HostInput :=
  match i with
  | .nop => { rst := false, cmd := encodeCmd .nop, key := 0, ivb := 0 }
  | .load m k iv => { rst := false, cmd := encodeCmd (.load m k iv), key := k, ivb := iv }
  | .initr => { rst := false, cmd := encodeCmd .initr, key := 0, ivb := 0 }
  | .initf => { rst := false, cmd := encodeCmd .initf, key := 0, ivb := 0 }
  | .gen => { rst := false, cmd := encodeCmd .gen, key := 0, ivb := 0 }

/-- What the host presents for a command word numbered as spec/opcode_table.json numbers it. CMD has 6 wires, so bits 7:6
of the table's byte are no part of it, and the operand buses KEY and IVB are 0 (log entry 8). -/
def tableInput (nbits w : Nat) : HostInput :=
  { rst := false, cmd := BitVec.ofNat 6 (w % 2 ^ nbits), key := 0, ivb := 0 }

/-- The instruction the decoder reads from a table word; none for a reserved word. -/
def decodeTableWord (nbits w : Nat) : Option Instr :=
  match decode (tableInput nbits w) with
  | .cmd i => some i
  | .reserved _ => none

end Sys2Proof
end

