-- ==== Sys2Proof/Machine/State.lean ====
section
/-! DEFINITION. The state of one core instance (spec/10_state.md), its reset value, and the reasons a step or a host
procedure can stop. -/

namespace Sys2Proof.Machine

/-- The lifecycle register PHASE; the encoding 3 is never written, so the type has three values (R24, U8; log entry 5). -/
inductive Phase where
  /-- 0: no key loaded since reset. -/
  | idle
  /-- 1: loaded, initialization in progress. -/
  | init
  /-- 2: initialized, keystream may be generated. -/
  | ready
  deriving DecidableEq, Repr

/-- The cause register ECODE; codes 5..7 are never written, so the type has five values (R27, R231, U6; log entry 5). -/
inductive ECode where
  /-- 0: the value while ERR = 0; never raised. -/
  | noFault
  /-- 1 RESERVED_OP: a reserved command word. -/
  | reservedOp
  /-- 2 INITR_PHASE: INITR out of order. -/
  | initrPhase
  /-- 3 INITF_PHASE: INITF out of order. -/
  | initfPhase
  /-- 4 GEN_PHASE: GEN out of order. -/
  | genPhase
  deriving DecidableEq, Repr

/-- The sixteen LFSR cells S[0] .. S[15]; S[0] is the oldest, S[15] the newest (R20). -/
structure Lfsr where
  s0 : Cell
  s1 : Cell
  s2 : Cell
  s3 : Cell
  s4 : Cell
  s5 : Cell
  s6 : Cell
  s7 : Cell
  s8 : Cell
  s9 : Cell
  s10 : Cell
  s11 : Cell
  s12 : Cell
  s13 : Cell
  s14 : Cell
  s15 : Cell
  deriving DecidableEq, Repr

/-- The cell S[i]; the last case is i = 15. -/
def Lfsr.get (l : Lfsr) (i : Fin 16) : Cell :=
  match i.val with
  | 0 => l.s0
  | 1 => l.s1
  | 2 => l.s2
  | 3 => l.s3
  | 4 => l.s4
  | 5 => l.s5
  | 6 => l.s6
  | 7 => l.s7
  | 8 => l.s8
  | 9 => l.s9
  | 10 => l.s10
  | 11 => l.s11
  | 12 => l.s12
  | 13 => l.s13
  | 14 => l.s14
  | _ => l.s15

/-- The sixteen cells given by a function of the index. -/
def Lfsr.ofFn (f : Fin 16 → Cell) : Lfsr :=
  { s0 := f 0, s1 := f 1, s2 := f 2, s3 := f 3, s4 := f 4, s5 := f 5, s6 := f 6, s7 := f 7,
    s8 := f 8, s9 := f 9, s10 := f 10, s11 := f 11, s12 := f 12, s13 := f 13, s14 := f 14, s15 := f 15 }

/-- The state of one core instance (10_state.md section 1), and what its host will present. STATUS has no storage (R30);
key, IV, mode, ROMs and the intermediate values are not state (R33). -/
structure State where
  /-- S[0] .. S[15] (R20). -/
  lfsr : Lfsr
  /-- R1 (R21). -/
  r1 : Word
  /-- R2 (R21). -/
  r2 : Word
  /-- PHASE (R24). -/
  phase : Phase
  /-- RND, 0..48 (R25, U9). -/
  rnd : Fin 49
  /-- ERR (R26). -/
  err : Bool
  /-- ECODE (R27). -/
  ecode : ECode
  /-- ZREG (R28). -/
  zreg : Word
  /-- ZV (R29). -/
  zv : Bool
  /-- THE MODEL'S OWN: what the host presents at the coming command boundaries, the next one first (R80, R81; log entry 1). -/
  inputs : List HostInput
  deriving DecidableEq, Repr

/-- The machine never stops with a fault: a command fault is recorded in ERR and ECODE and the core goes on (R232), so
there is no constructor (safe; log entry 7). -/
inductive Fault where
  deriving DecidableEq, Repr

/-- Why something has no meaning. The core's own step raises none of these; the host procedures of
45_host_procedures.md refuse a call that breaks their contract. -/
inductive Refusal where
  /-- Raised by a refused arm of exec: an instruction with no meaning yet (safe). No arm raises it. -/
  | notModelled (mnemonic : String)
  /-- Raised by a host procedure run while the core is not READY (D29); safe: no GEN is issued. -/
  | hostCoreNotReady
  /-- Raised by generate_mac for a tag length outside 32, 64, 128 (R213); safe: no GEN is issued. -/
  | macTagBits
  /-- Raised by generate_mac for more message bits than the buffer holds (R213); safe: no GEN is issued. -/
  | macMessageBits
  /-- Raised by the slice extractor for a bit past the generated keystream (R217, D28, U1); safe: no valid call does it. -/
  | sliceOutOfRange
  deriving DecidableEq, Repr

/-- The machine right after reset (R34, R260): every register 0, PHASE IDLE. No host input is pending (log entry 1). -/
def State.reset : State :=
  { lfsr := { s0 := 0, s1 := 0, s2 := 0, s3 := 0, s4 := 0, s5 := 0, s6 := 0, s7 := 0,
              s8 := 0, s9 := 0, s10 := 0, s11 := 0, s12 := 0, s13 := 0, s14 := 0, s15 := 0 },
    r1 := 0, r2 := 0, phase := .idle, rnd := 0, err := false, ecode := .noFault, zreg := 0, zv := false,
    inputs := [] }

end Sys2Proof.Machine
end

