-- ==== Sys2Proof/Machine/Rom.lean ====
section
/-! DEFINITION. The three read-only memories of the core (spec/20_memory.md R50): S0ROM and S1ROM
(spec/41_sbox.md R130, R131) and DROM (spec/44_commands.md R183). They are configuration constants (D20, U11), constant
in every state; every address holds a value. -/

namespace Sys2Proof.Machine

/-- S0 as the sixteen rows of R130, each row's columns x0 .. xF from left to right. PRESUMED by the spec from general
knowledge (GK1; log entry 3). -/
def s0Rows : List (BitVec 128) :=
  [ 0x3E725B47CAE0003304D1549809B96DCB,
    0x7B1BF932AF9D6AA5B82DFC1D08530390,
    0x4D4E8499E4CED991DDB685488B296EAC,
    0xCDC1F81E734369C6B5BDFD396320D438,
    0x767DB2A7CFED57C5F32CBB142106559B,
    0xE3EF5E314F7F5AA40D8251495FBA581C,
    0x4A16D517A892241F8CFFD8AE2E01D3AD,
    0x3B4BDA46EBC9DE9A8F87D73A806F2FC8,
    0xB1B437F70A2213287CCC3C89C7C39656,
    0x07BF7EF00B2B975235417961A64C10FE,
    0xBC2695888AB0A3FBC01894F2E1E5E95D,
    0xD0DC1166645CEC59427512F5749CAA23,
    0x0E86ABBE2A02E767E644A26CC2939FF1,
    0xF6FA36D250689E6271153DD640C4E20F,
    0x8E83776B25053F0C30EA70B7A1E8A965,
    0x8D271ADB81B3A0F4457A19DFEE783460 ]

/-- S1 as the sixteen rows of R131, in the same layout. PRESUMED by the spec from general knowledge (GK1; log entry 3). -/
def s1Rows : List (BitVec 128) :=
  [ 0x55C263713BC847869F3CDA5B29AAFD77,
    0x8CC5940CA61A1300E3A8167240F9F842,
    0x4426689681D9453E1076C6A78B3943E1,
    0x3AB5562AC06DB3052266BFDC0BFA6248,
    0xDD20110636C9C1CFF62752BB69F5D487,
    0x7F844CD29C57A4BC4F9ADFFED68D7AEB,
    0x2B53D85CA11417FB23D57D3067730809,
    0xEEB7703F61B2198E4EE54B938F5DDBA9,
    0xADF1AE2ECB0DFCF42D466E1D97E8D1E9,
    0x4D37A5755E839EAB829DB91CE0CD4989,
    0x01B6BD5824A25F387899159050B895E4,
    0xD091C7CEED0FB46FA0CCF0024A79C3DE,
    0xA3EFEA51E66B18EC1B2C80F774E7FF21,
    0x5A6A541E41319235C433070ABA7E0E34,
    0x88B1987CF33D606C7BCAD31F32650428,
    0x64BE859B2F598AD7B025ACAF1203E2F2 ]

/-- One byte of a table of rows: the row is the high hex digit of the address, the column the low one (R130). -/
def romByte (rows : List (BitVec 128)) (a : Byte) : Byte :=
  (rows.getD (a.toNat / 16) 0).extractLsb' (8 * (15 - a.toNat % 16)) 8

/-- MemRead(S0ROM, a, 1) (R12, R50, R130). -/
def s0rom (a : Byte) : Byte := romByte s0Rows a

/-- MemRead(S1ROM, a, 1) (R12, R50, R131). -/
def s1rom (a : Byte) : Byte := romByte s1Rows a

/-- D_ENC[0] .. D_ENC[15] (R183). -/
def dEnc : List DConst :=
  [0x64, 0x43, 0x7B, 0x2A, 0x11, 0x05, 0x51, 0x42, 0x1A, 0x31, 0x18, 0x66, 0x14, 0x2E, 0x01, 0x5C]

/-- D_MAC32: D_ENC with D[2] = 7A (R183). -/
def dMac32 : List DConst :=
  [0x64, 0x43, 0x7A, 0x2A, 0x11, 0x05, 0x51, 0x42, 0x1A, 0x31, 0x18, 0x66, 0x14, 0x2E, 0x01, 0x5C]

/-- D_MAC64: D_ENC with D[0] = 65 (R183). -/
def dMac64 : List DConst :=
  [0x65, 0x43, 0x7B, 0x2A, 0x11, 0x05, 0x51, 0x42, 0x1A, 0x31, 0x18, 0x66, 0x14, 0x2E, 0x01, 0x5C]

/-- D_MAC128: D_ENC with D[0] = 65 and D[2] = 7A (R183). -/
def dMac128 : List DConst :=
  [0x65, 0x43, 0x7A, 0x2A, 0x11, 0x05, 0x51, 0x42, 0x1A, 0x31, 0x18, 0x66, 0x14, 0x2E, 0x01, 0x5C]

/-- The D table of a mode (R84, R183). -/
def dTable : Mode → List DConst
  | .encrypt => dEnc
  | .mac32 => dMac32
  | .mac64 => dMac64
  | .mac128 => dMac128

/-- MemRead(DROM[m], i, 1) (R12, R50, R183). -/
def drom (m : Mode) (i : Fin 16) : DConst := (dTable m).getD i.val 0

end Sys2Proof.Machine
end

