-- ==== Sys2Proof/Machine/Arith.lean ====
section
/-! DEFINITION. The combinational datapath: the modular adder, the rotators, the 32-bit addition, L1 and L2
(spec/40_arith.md), and the substitution S (spec/41_sbox.md R132). Each is a pure function, writes no flag and raises
nothing. -/

namespace Sys2Proof.Machine

/-- One end-around-carry fold of a 32-bit sum: bit 31 goes back into bit 0 (R110). -/
def fold31 (c : Word) : Word := (c.extractLsb' 0 31).setWidth 32 + (c.extractLsb' 31 1).setWidth 32

/-- `add_mod31(a, b)`, written a ⊞ b: the 32-bit sum folded twice, as R110 requires. -/
def addMod31 (a b : Cell) : Cell :=
  let c0 : Word := a.setWidth 32 + b.setWidth 32
  let c1 := fold31 c0
  let c2 := fold31 c1
  c2.extractLsb' 0 31

/-- The representative of R111 (5): 0 for 0, and otherwise the value in [1, 2^31 - 1] congruent to n. -/
def rep (n : Nat) : Nat := if n = 0 then 0 else (n - 1) % Config.modulus + 1

/-- `mul31(s, k)`, written 2^k · s: the 31-bit cyclic left rotation (R112). The core uses k in 8, 15, 17, 20, 21 only
(D18). -/
def mul31 (s : Cell) (k : Nat) : Cell := (s <<< k) ||| (s >>> (31 - k))

/-- `rot32(x, k)`: the 32-bit cyclic left rotation (R114; direction: GK2, log entry 4). -/
def rot32 (x : Word) (k : Nat) : Word := (x <<< k) ||| (x >>> (32 - k))

/-- The 32-bit wrapping addition; the carry is discarded (R115). -/
def add32 (a b : Word) : Word := a + b

/-- L1 (R117). -/
def l1 (x : Word) : Word := x ^^^ rot32 x 2 ^^^ rot32 x 10 ^^^ rot32 x 18 ^^^ rot32 x 24

/-- L2 (R118). -/
def l2 (x : Word) : Word := x ^^^ rot32 x 8 ^^^ rot32 x 14 ^^^ rot32 x 22 ^^^ rot32 x 30

/-- high16 (R8). -/
def high16 (x : Word) : BitVec 16 := x.extractLsb' 16 16

/-- low16 (R8). -/
def low16 (x : Word) : BitVec 16 := x.extractLsb' 0 16

/-- S(a): four byte lookups, S0 in lanes 3 and 1, S1 in lanes 2 and 0 (R132). -/
def sbox (a : Word) : Word :=
  s0rom (a.extractLsb' 24 8) ++ s1rom (a.extractLsb' 16 8) ++ s0rom (a.extractLsb' 8 8) ++ s1rom (a.extractLsb' 0 8)

end Sys2Proof.Machine
end

