-- ==== Sys2Proof/Machine/BrF.lean ====
section
/-! DEFINITION. The bit reorganization BR and the nonlinear function F (spec/43_br_f.md). -/

namespace Sys2Proof.Machine

/-- The four words of BR (R160). They exist inside one command only (R33). -/
structure BrWords where
  x0 : Word
  x1 : Word
  x2 : Word
  x3 : Word
  deriving DecidableEq, Repr

/-- The high half of a cell, bits 30:15 (R8, R160). -/
def cellHigh (s : Cell) : BitVec 16 := s.extractLsb' 15 16

/-- The low half of a cell, bits 15:0 (R160). -/
def cellLow (s : Cell) : BitVec 16 := s.extractLsb' 0 16

/-- BR: the four words of the current cells; it writes no state (R160). -/
def bitReorg (l : Lfsr) : BrWords :=
  { x0 := cellHigh l.s15 ++ cellLow l.s14,
    x1 := cellLow l.s11 ++ cellHigh l.s9,
    x2 := cellLow l.s7 ++ cellHigh l.s5,
    x3 := cellLow l.s2 ++ cellHigh l.s0 }

/-- What F gives: its output W and the new R1 and R2 (R165). -/
structure FOut where
  w : Word
  r1 : Word
  r2 : Word
  deriving DecidableEq, Repr

/-- W = (X0 ⊕ R1) ⊞32 R2, from R1 and R2 before the update (R162). -/
def fWord (x0 r1 r2 : Word) : Word := add32 (x0 ^^^ r1) r2

/-- W1 = R1 ⊞32 X1 (R163). -/
def fW1 (x1 r1 : Word) : Word := add32 r1 x1

/-- W2 = R2 ⊕ X2 (R163). -/
def fW2 (x2 r2 : Word) : Word := r2 ^^^ x2

/-- A1: low16(W1) above high16(W2) (R163). -/
def fA1 (w1 w2 : Word) : Word := low16 w1 ++ high16 w2

/-- A2: low16(W2) above high16(W1) (R163). -/
def fA2 (w1 w2 : Word) : Word := low16 w2 ++ high16 w1

/-- F(X0, X1, X2) at the registers R1, R2 (R165); X3 is no operand. -/
def fStep (x0 x1 x2 r1 r2 : Word) : FOut :=
  let w1 := fW1 x1 r1
  let w2 := fW2 x2 r2
  { w := fWord x0 r1 r2, r1 := sbox (l1 (fA1 w1 w2)), r2 := sbox (l2 (fA2 w1 w2)) }

end Sys2Proof.Machine
end

