-- ==== Sys2Proof/Machine/Flags.lean ====
section
/-! DEFINITION. The flags and the status word (spec/10_state.md R24-R32) and the legality checks of the commands
(spec/44_commands.md). The core has no condition codes (R32). -/

namespace Sys2Proof.Machine

/-- The 2-bit encoding of PHASE (R24). -/
def phaseBits : Phase → BitVec 2
  | .idle => 0
  | .init => 1
  | .ready => 2

/-- The 3-bit code of a cause (R231). -/
def ecodeBits : ECode → BitVec 3
  | .noFault => 0
  | .reservedOp => 1
  | .initrPhase => 2
  | .initfPhase => 3
  | .genPhase => 4

/-- The STATUS port: {RND[5:0], 0, ECODE[2:0], ERR, ZV, PHASE[1:0]} zero-extended to 32 bits (R30, U10). -/
def status (s : State) : Word :=
  (BitVec.ofNat 6 s.rnd.val ++ (0 : BitVec 1) ++ ecodeBits s.ecode ++ BitVec.ofBool s.err ++ BitVec.ofBool s.zv
    ++ phaseBits s.phase).setWidth 32

/-- The Z port: the current ZREG (R28, R80). -/
def zPort (s : State) : Word := s.zreg

/-- INITR is legal when PHASE = INIT and RND < 48 (R186). -/
def initrLegal (s : State) : Bool := s.phase == .init && decide (s.rnd.val < 48)

/-- INITF is legal when PHASE = INIT and RND = 48 (R188). -/
def initfLegal (s : State) : Bool := s.phase == .init && s.rnd.val == 48

/-- GEN is legal when PHASE = READY (R190). -/
def genLegal (s : State) : Bool := s.phase == .ready

/-- RND + 1, for a RND that the check of INITR found below 48 (R25, R186). -/
def nextRnd (r : Fin 49) : Fin 49 := r + 1

end Sys2Proof.Machine
end

