-- ==== Sys2Proof/Machine/Lfsr.lean ====
section
/-! DEFINITION. The LFSR engine: feedback, SHIFT and the two update modes (spec/42_lfsr.md). -/

namespace Sys2Proof.Machine

/-- The feedback value v of the current cells, added in the order of R140. -/
def feedback (l : Lfsr) : Cell :=
  let t0 := addMod31 l.s0 (mul31 l.s0 8)
  let v1 := addMod31 (mul31 l.s15 15) (mul31 l.s13 17)
  let v2 := addMod31 v1 (mul31 l.s10 21)
  let v3 := addMod31 v2 (mul31 l.s4 20)
  addMod31 v3 t0

/-- What SHIFT writes to S[15]: 0 is replaced by 2^31 - 1 (R142). -/
def nonzeroCell (y : Cell) : Cell := if y = 0 then 0x7FFFFFFF else y

/-- SHIFT(y): every cell moves one place toward the oldest end, the old S[0] is discarded, and y goes to S[15] (R142). -/
def lfsrShift (l : Lfsr) (y : Cell) : Lfsr :=
  { s0 := l.s1, s1 := l.s2, s2 := l.s3, s3 := l.s4, s4 := l.s5, s5 := l.s6, s6 := l.s7, s7 := l.s8,
    s8 := l.s9, s9 := l.s10, s10 := l.s11, s11 := l.s12, s12 := l.s13, s13 := l.s14, s14 := l.s15,
    s15 := nonzeroCell y }

/-- LFSRWork(): SHIFT(v) (R144). -/
def lfsrWork (l : Lfsr) : Lfsr := lfsrShift l (feedback l)

/-- LFSRInit(u): SHIFT(v ⊞ u) (R145). -/
def lfsrInit (l : Lfsr) (u : Cell) : Lfsr := lfsrShift l (addMod31 (feedback l) u)

end Sys2Proof.Machine
end

