-- ==== Sys2Proof/Machine/Operands.lean ====
section
/-! DEFINITION. The operands of LOAD: the bytes of the KEY and IVB buses (spec/20_memory.md R52) and their packing into
LFSR cells (spec/44_commands.md R184). No other command has an operand (R86). -/

namespace Sys2Proof.Machine

/-- K[j] = KEY[255-8j : 248-8j] for j = 0..31 (R10, R52). -/
def keyByte (k : KeyBus) (j : Nat) : Byte := k.extractLsb' (248 - 8 * j) 8

/-- IV[j] = IVB[127-8j : 120-8j] for j = 0..15 (R10, R52). -/
def ivByte (iv : IvBus) (j : Nat) : Byte := iv.extractLsb' (120 - 8 * j) 8

/-- A loaded cell: byte1 in bits 30:23, the D constant in 22:16, byte3 in 15:8, byte4 in 7:0 (R184). -/
def packCell (byte1 : Byte) (d : DConst) (byte3 byte4 : Byte) : Cell := byte1 ++ d ++ byte3 ++ byte4

/-- byte3 of cell i (the table of R184). -/
def loadByte3 (k : KeyBus) (iv : IvBus) (i : Fin 16) : Byte :=
  if i.val ≤ 6 then keyByte k (16 + i.val)
  else if i.val ≤ 14 then ivByte iv (i.val - 7)
  else keyByte k 23

/-- byte4 of cell i (the table of R184). -/
def loadByte4 (k : KeyBus) (iv : IvBus) (i : Fin 16) : Byte :=
  if i.val ≤ 6 then keyByte k (24 + i.val)
  else if i.val ≤ 14 then ivByte iv (i.val + 1)
  else keyByte k 31

/-- The cell S[i] that LOAD writes (R184). -/
def loadCell (m : Mode) (k : KeyBus) (iv : IvBus) (i : Fin 16) : Cell :=
  packCell (keyByte k i.val) (drom m i) (loadByte3 k iv i) (loadByte4 k iv i)

/-- The sixteen cells that LOAD writes (R184). -/
def loadCells (m : Mode) (k : KeyBus) (iv : IvBus) : Lfsr := Lfsr.ofFn (loadCell m k iv)

end Sys2Proof.Machine
end

