-- ==== Sys2Proof/Machine/Ops.lean ====
section
/-! DEFINITION. The operations that read and write the registers as a whole: recording a command fault
(spec/60_exceptions.md R232), reset (spec/70_reset_and_hazards.md R260), taking the next input of the host, and the
working step that INITF and GEN share. There is no memory to write (R51) and no return from a fault (R238). -/

namespace Sys2Proof.Machine

/-- The outcome of a command of this core. -/
abbrev Result := Host.Outcome State Fault Refusal

/-- CmdFault(code): ECODE takes the code of the first fault since reset only, ERR is set, nothing else changes
(R232, R233). -/
def cmdFault (code : ECode) (s : State) : State :=
  { s with ecode := if s.err then s.ecode else code, err := true }

/-- The reset event: every register takes its reset value (R260). What the host will present next is the host's and
stays. -/
def resetCore (s : State) : State := { State.reset with inputs := s.inputs }

/-- The next input of the host, taken off the list; none when the host presents nothing. -/
def takeInput (s : State) : Option (HostInput × State) :=
  match s.inputs with
  | [] => none
  | b :: rest => some (b, { s with inputs := rest })

/-- The host presents one more input, before all others. -/
def present (b : HostInput) (s : State) : State := { s with inputs := b :: s.inputs }

/-- With no command and no reset the core holds all its state (R245). -/
def holdState (s : State) : State := s

/-- F at the words of BR of the current cells (R160, R165). -/
def fOf (s : State) : FOut :=
  fStep (bitReorg s.lfsr).x0 (bitReorg s.lfsr).x1 (bitReorg s.lfsr).x2 s.r1 s.r2

/-- The word of a working step, Z = W ⊕ X3, all from the state before the update (R190, R191). -/
def workWord (s : State) : Word := (fOf s).w ^^^ (bitReorg s.lfsr).x3

/-- The register updates of a working step: F's new R1 and R2, and the work-mode LFSR update (R188-R191). -/
def workUpdate (s : State) : State :=
  { s with lfsr := lfsrWork s.lfsr, r1 := (fOf s).r1, r2 := (fOf s).r2 }

/-- The register updates of an initialization round: F's new R1 and R2, and the init-mode LFSR update with
u = W >> 1 = W[31:1] (R186, R187). -/
def initUpdate (s : State) : State :=
  { s with lfsr := lfsrInit s.lfsr ((fOf s).w.extractLsb' 1 31), r1 := (fOf s).r1, r2 := (fOf s).r2 }

end Sys2Proof.Machine
end

