-- ==== Sys2Proof/Machine/Control.lean ====
section
/-! DEFINITION. NOP (spec/44_commands.md R181) and the reserved words (spec/30_encoding.md R87). -/

namespace Sys2Proof.Machine

/-- NOP: nothing, in every phase (R181). -/
def execNop (s : State) : Result := .next s

/-- A reserved word, OP 0x5..0xF, any MODE: CmdFault(1) and nothing else (R87, R180). -/
def execReserved (_op : BitVec 4) (s : State) : Result := .next (cmdFault .reservedOp s)

end Sys2Proof.Machine
end

