-- ==== Sys2Proof/Machine/Initialize.lean ====
section
/-! DEFINITION. INITR and INITF, the initialization commands (spec/44_commands.md R186-R189). -/

namespace Sys2Proof.Machine

/-- INITR: one initialization round, or CmdFault(2) (R186). -/
def execInitr (s : State) : Result :=
  if initrLegal s then .next { initUpdate s with rnd := nextRnd s.rnd }
  else .next (cmdFault .initrPhase s)

/-- INITF: the working step whose word is discarded, or CmdFault(3) (R188, R189). -/
def execInitf (s : State) : Result :=
  if initfLegal s then .next { workUpdate s with phase := .ready }
  else .next (cmdFault .initfPhase s)

end Sys2Proof.Machine
end

