-- ==== Sys2Proof/Machine/Keystream.lean ====
section
/-! DEFINITION. GEN, the keystream command (spec/44_commands.md R190, R191). -/

namespace Sys2Proof.Machine

/-- GEN: one working step whose word goes to ZREG, or CmdFault(4) (R190). -/
def execGen (s : State) : Result :=
  if genLegal s then .next { workUpdate s with zreg := workWord s, zv := true }
  else .next (cmdFault .genPhase s)

end Sys2Proof.Machine
end

