-- ==== Sys2Proof/Machine/Loader.lean ====
section
/-! DEFINITION. LOAD, the key and IV loader (spec/44_commands.md R182-R185). -/

namespace Sys2Proof.Machine

/-- LOAD(mode, K, IV): legal in every phase; ERR and ECODE are not changed (R182, R184, D34). -/
def execLoad (m : Mode) (k : KeyBus) (iv : IvBus) (s : State) : Result :=
  .next { s with lfsr := loadCells m k iv, r1 := 0, r2 := 0, phase := .init, rnd := 0, zreg := 0, zv := false }

end Sys2Proof.Machine
end

