-- ==== Sys2Proof/Machine/Dispatch.lean ====
section
/-! DEFINITION. One arm per command (spec/44_commands.md R180). -/

namespace Sys2Proof.Machine

def exec (i : Instr) (s : State) : Host.Outcome State Fault Refusal :=
  match i with
  | .nop => Sys2Proof.Machine.execNop s
  | .load m k iv => Sys2Proof.Machine.execLoad m k iv s
  | .initr => Sys2Proof.Machine.execInitr s
  | .initf => Sys2Proof.Machine.execInitf s
  | .gen => Sys2Proof.Machine.execGen s

end Sys2Proof.Machine
end

