-- ==== Sys2Proof/Machine/Step.lean ====
section
/-! DEFINITION. One step: the core takes what the host presents at one command boundary and executes it completely
(spec/00_scope.md R13; spec/30_encoding.md R81; spec/70_reset_and_hazards.md R260, R261). -/

namespace Sys2Proof.Machine

/-- One command boundary. Nothing presented: the state is held (R245). RST: the core is reset and the command is not
executed (R261). Otherwise the decoded command runs, a reserved word recording fault 1 (R87, R180). -/
def step (s : State) : Host.Outcome State Fault Refusal :=
  match takeInput s with
  | none => .next (holdState s)
  | some (b, s') =>
    if b.rst then .next (resetCore s')
    else
      match decode b with
      | .cmd i => exec i s'
      | .reserved op => execReserved op s'

/-- s with the table word w presented as the host's next input (log entry 1): KEY = IVB = 0, RST not asserted. -/
def State.withFetchWord (s : State) (nbits w : Nat) : State := present (tableInput nbits w) s

end Sys2Proof.Machine
end

