-- ==== Sys2Proof/Machine/Pseudo.lean ====
section
/-! DEFINITION. The pseudo-commands INIT, NEW and GENN and their expansions (spec/30_encoding.md R90). -/

namespace Sys2Proof.Machine

/-- INIT: 48 INITR, then INITF (R90). -/
def initSeq : List HostInput := List.replicate 48 (encode .initr) ++ [encode .initf]

/-- NEW mode, key, iv: LOAD, then INIT; the document's constructor (R90, R91, R263). -/
def newSeq (m : Mode) (k : KeyBus) (iv : IvBus) : List HostInput := encode (.load m k iv) :: initSeq

/-- GENN n: n GEN (R90). -/
def gennSeq (n : Nat) : List HostInput := List.replicate n (encode .gen)

/-- The host presents a sequence of inputs, before all others. -/
def presentAll (bs : List HostInput) (s : State) : State := { s with inputs := bs ++ s.inputs }

end Sys2Proof.Machine
end

