-- ==== Sys2Proof/Machine/HostProcedures.lean ====
section
/-! DEFINITION. The host procedures apply_keystream and generate_mac (spec/45_host_procedures.md): host software that
drives the core with GEN commands through its ports. Each gives its answer and the core after it, or a refusal (D29). -/

namespace Sys2Proof.Machine

/-- `GEN; z = Z`: the host presents CMD = GEN and reads Z; the document's gen_word (R91). Refused when the core is not
READY (D29). -/
def hostGen (s : State) : Except Refusal (Word × State) :=
  if s.phase = .ready then
    match step (present (encode .gen) s) with
    | .next t => .ok (zPort t, t)
    | .fault f => nomatch f
    | .refused r => .error r
  else .error .hostCoreNotReady

/-- n times `GEN; z = Z`, the words in generation order. -/
def hostGens : Nat → State → Except Refusal (List Word × State)
  | 0, s => .ok ([], s)
  | n + 1, s => do
    let (z, s1) ← hostGen s
    let (zs, s2) ← hostGens n s1
    .ok (z :: zs, s2)

/-- The bytes of a keystream word, byte 0 first: byte b is z[31-8b : 24-8b] (R53). -/
def wordBytes (z : Word) : List Byte :=
  [z.extractLsb' 24 8, z.extractLsb' 16 8, z.extractLsb' 8 8, z.extractLsb' 0 8]

/-- Byte-wise exclusive OR, as long as the shorter list. -/
def xorBytes (a b : List Byte) : List Byte := List.zipWith (fun x y => x ^^^ y) a b

/-- The body of apply_keystream: one word per four bytes, and one more for a rest of 1 to 3 bytes, whose low bytes are
dropped (R210). -/
def applyWords : List Byte → State → Except Refusal (List Byte × State)
  | [], s => .ok ([], s)
  | a :: b :: c :: d :: rest, s => do
    let (z, s1) ← hostGen s
    let (out, s2) ← applyWords rest s1
    .ok (xorBytes [a, b, c, d] (wordBytes z) ++ out, s2)
  | tail, s => do
    let (z, s1) ← hostGen s
    .ok (xorBytes tail (wordBytes z), s1)

/-- apply_keystream(data): refused when the core is not READY, whatever the length (D29). -/
def applyKeystream (data : List Byte) (s : State) : Except Refusal (List Byte × State) :=
  if s.phase = .ready then applyWords data s else .error .hostCoreNotReady

/-- wc = ceil((l + 2t) / 32), the keystream words of one MAC (R215). -/
def macWordCount (l t : Nat) : Nat := (l + 2 * t + 31) / 32

/-- Kbit(q): bit q of the keystream bit string, `Zw[q div 32][31 - (q mod 32)]`; none past the generated words
(R54, R216, R217). -/
def keystreamBit (zw : List Word) (q : Nat) : Option Bool :=
  (zw[q / 32]?).map fun z => z.getLsbD (31 - q % 32)

/-- Bits packed into bytes, left-aligned: bit i becomes bit 7 - (i mod 8) of byte i div 8, the rest 0 (R9, R216). -/
def packBits (bits : List Bool) : List Byte :=
  (List.range ((bits.length + 7) / 8)).map fun j =>
    BitVec.ofBoolListBE
      [bits.getD (8 * j) false, bits.getD (8 * j + 1) false, bits.getD (8 * j + 2) false, bits.getD (8 * j + 3) false,
       bits.getD (8 * j + 4) false, bits.getD (8 * j + 5) false, bits.getD (8 * j + 6) false, bits.getD (8 * j + 7) false]

/-- Wsl(p, n): the n-bit slice at bit position p, packed into bytes; refused when it reaches past the generated
keystream (R216, R217, D28). -/
def wsl (zw : List Word) (p n : Nat) : Except Refusal (List Byte) :=
  match (List.range n).mapM fun i => keystreamBit zw (p + i) with
  | some bits => .ok (packBits bits)
  | none => .error .sliceOutOfRange

/-- msgbit(i) = msg[i div 8][7 - (i mod 8)] (R214). -/
def msgBit (msg : List Byte) (i : Nat) : Bool := (msg.getD (i / 8) 0).getLsbD (7 - i % 8)

/-- The tag of R214 from the generated words: Wsl(0, t), then Wsl(t + i, t) for each message bit i < l that is 1, then
Wsl(l + t, t). The range 0..l is half-open (C3). -/
def macTag (zw : List Word) (msg : List Byte) (l t : Nat) : Except Refusal (List Byte) := do
  let t0 ← wsl zw 0 t
  let t1 ← (List.range l).foldlM
    (fun acc i => if msgBit msg i then do .ok (xorBytes acc (← wsl zw (t + i) t)) else .ok acc) t0
  .ok (xorBytes t1 (← wsl zw (l + t) t))

/-- generate_mac(msg, l, t): a call that breaks the contract gives no tag and issues no GEN (R213, U3); the loaded mode is
not checked against t (U15). -/
def generateMac (msg : List Byte) (l t : Nat) (s : State) : Except Refusal (List Byte × State) :=
  if t ≠ 32 ∧ t ≠ 64 ∧ t ≠ 128 then .error .macTagBits
  else if 8 * msg.length < l then .error .macMessageBits
  else if s.phase = .ready then do
    let (zw, s1) ← hostGens (macWordCount l t) s
    let tag ← macTag zw msg l t
    .ok (tag, s1)
  else .error .hostCoreNotReady

end Sys2Proof.Machine
end

