-- ==== Sys2Proof/Machine/Platform.lean ====
section
/-! DEFINITION. A platform of N_CORES independent instances (spec/10_state.md R35; spec/60_exceptions.md R243). -/

namespace Sys2Proof.Machine

/-- The instances of a platform; each has its own registers, nothing is shared (R35). -/
abbrev Platform (p : Config.OpenParams) := Vector State p.nCores

/-- Every instance at its own reset (R243). -/
def Platform.reset (p : Config.OpenParams) : Platform p := Vector.replicate p.nCores State.reset

/-- One command boundary of instance k; the others do not move (R243). -/
def Platform.stepAt {p : Config.OpenParams} (k : Fin p.nCores) (c : Platform p) :
    Host.Outcome (Platform p) Fault Refusal :=
  match step (c.get k) with
  | .next t => .next (c.set k t)
  | .fault f => .fault f
  | .refused r => .refused r

end Sys2Proof.Machine
end

