-- ==== Sys2Proof/Safety.lean ====
section
/-! DEFINITION. What counts as a safe state, in the terms the claims use. -/

namespace Sys2Proof.Machine

/-- Every cell is in [1, 2^31 - 1] (R22). -/
abbrev cellsNonzero (l : Lfsr) : Prop := ∀ i : Fin 16, l.get i ≠ 0

/-- The invariant of the spec: what holds of the registers after reset and after every command. -/
structure Inv (s : State) : Prop where
  /-- From the end of a LOAD until the next reset every cell is nonzero (R22). -/
  cells : s.phase ≠ .idle → cellsNonzero s.lfsr
  /-- Between reset and the first LOAD the cipher state is 0 (R22, R34). -/
  idle_cipher : s.phase = .idle → s.lfsr = State.reset.lfsr ∧ s.r1 = 0 ∧ s.r2 = 0
  /-- RND counts from the last LOAD or reset, so it is 0 in IDLE (R25). -/
  idle_rnd : s.phase = .idle → s.rnd = 0
  /-- RND reads 48 in READY (R25). -/
  ready_rnd : s.phase = .ready → s.rnd = 48
  /-- ZV = 1 implies PHASE = READY (R234). -/
  zv_ready : s.zv = true → s.phase = .ready
  /-- Z = 0 whenever ZV = 0 (R234). -/
  z_zero : s.zv = false → s.zreg = 0
  /-- ECODE is 0 exactly while ERR = 0 (R231, R232). -/
  ecode_err : s.ecode = .noFault ↔ s.err = false

/-- The two states agree on every register a command fault leaves alone (R232): S, R1, R2, PHASE, RND, ZREG, ZV. -/
def sameCipher (s t : State) : Prop :=
  s.lfsr = t.lfsr ∧ s.r1 = t.r1 ∧ s.r2 = t.r2 ∧ s.phase = t.phase ∧ s.rnd = t.rnd ∧ s.zreg = t.zreg ∧ s.zv = t.zv

/-- The next n GEN commands take the core from s to t, and `zs` is what the port Z shows after each of them: the core
itself runs them, one step per command (R91). -/
def keystreamWords (n : Nat) (s : State) (zs : List Word) (t : State) : Prop :=
  Host.Core.run Sys2Proof.core n (presentAll (gennSeq n) s) = .next t ∧ zs.length = n ∧
  ∀ j < n, ∃ u, Host.Core.run Sys2Proof.core (j + 1) (presentAll (gennSeq (j + 1)) s) = .next u ∧
    zs[j]? = some (zPort u)

end Sys2Proof.Machine
end

