-- ==== Sys2Proof/Certificates/Slice0/Obligations.lean ====
section
/-! DEFINITION. The statements for the provers, from the numbered rules of spec/. -/

open Sys2Proof Sys2Proof.Machine

/-! ## Encoding -/

/-- What the encoder presents for an instruction decodes to it, every operand at every value (R82-R88). -/
def Obligations.DecodeOfEncodeIsTheInstruction : Prop :=
  ∀ i : Instr, i.wf = true → (encode i).rst = false ∧ decode (encode i) = .cmd i

/-- R88: decoding is total, by OP alone, MODE read only for LOAD, with the words and counts the rule lists; a reserved
word decodes to RESERVED(op) with op = CMD[3:0]. -/
def Obligations.EachCommandWordDecodesToOneOperation : Prop :=
  (∀ b : HostInput,
    (decode b = .cmd .nop ↔ b.cmd ∈ [(0x00 : CmdWord), 0x10, 0x20, 0x30]) ∧
    (b.cmd = 0x01 → decode b = .cmd (.load .encrypt b.key b.ivb)) ∧
    (b.cmd = 0x11 → decode b = .cmd (.load .mac32 b.key b.ivb)) ∧
    (b.cmd = 0x21 → decode b = .cmd (.load .mac64 b.key b.ivb)) ∧
    (b.cmd = 0x31 → decode b = .cmd (.load .mac128 b.key b.ivb)) ∧
    (∀ m k v, decode b = .cmd (.load m k v) → b.cmd ∈ [(0x01 : CmdWord), 0x11, 0x21, 0x31]) ∧
    (decode b = .cmd .initr ↔ b.cmd ∈ [(0x02 : CmdWord), 0x12, 0x22, 0x32]) ∧
    (decode b = .cmd .initf ↔ b.cmd ∈ [(0x03 : CmdWord), 0x13, 0x23, 0x33]) ∧
    (decode b = .cmd .gen ↔ b.cmd ∈ [(0x04 : CmdWord), 0x14, 0x24, 0x34]) ∧
    (∀ op : BitVec 4, decode b = .reserved op ↔ 5 ≤ b.cmd.toNat % 16 ∧ op.toNat = b.cmd.toNat % 16)) ∧
  ((List.range 64).filter fun w => (decodeTableWord 8 w).isNone).length = 44

/-- A few words of the opcode table, written out from R82-R84 and R89. -/
def Obligations.WordsOfTheOpcodeTableDecode : Prop :=
  ∀ (k : KeyBus) (v : IvBus),
    decode { rst := false, cmd := 0b000000, key := k, ivb := v } = .cmd .nop ∧
    decode { rst := false, cmd := 0b010001, key := k, ivb := v } = .cmd (.load .mac32 k v) ∧
    decode { rst := false, cmd := 0b100001, key := k, ivb := v } = .cmd (.load .mac64 k v) ∧
    decode { rst := false, cmd := 0b000010, key := k, ivb := v } = .cmd .initr ∧
    decode { rst := false, cmd := 0b000011, key := k, ivb := v } = .cmd .initf ∧
    decode { rst := false, cmd := 0b110100, key := k, ivb := v } = .cmd .gen ∧
    decode { rst := false, cmd := 0b101111, key := k, ivb := v } = .reserved 0xF

/-- R90: the pseudo-commands are the command sequences the rule lists, and no other input. -/
def Obligations.PseudoCommandsExpandToTheirSequences : Prop :=
  ∀ (m : Mode) (k : KeyBus) (v : IvBus) (n : Nat),
    initSeq.map decode = List.replicate 48 (.cmd .initr) ++ [.cmd .initf] ∧
    (newSeq m k v).map decode = .cmd (.load m k v) :: (List.replicate 48 (.cmd .initr) ++ [.cmd .initf]) ∧
    (gennSeq n).map decode = List.replicate n (.cmd .gen) ∧
    initSeq.length = 49 ∧ (newSeq m k v).length = 50 ∧ (gennSeq n).length = n ∧
    (∀ b ∈ newSeq m k v ++ gennSeq n, b.rst = false)

/-! ## The step -/

/-- A step takes the next input of the host; with RST not asserted and a word that decodes to a command, it is exec of that command
at the state without that input. -/
def Obligations.StepRunsTheDecodedCommand : Prop :=
  ∀ (s : State) (b : HostInput) (rest : List HostInput) (i : Instr),
    s.inputs = b :: rest → b.rst = false → decode b = .cmd i → i.wf = true →
    step s = exec i { s with inputs := rest }

/-- Presenting a table word makes the very next step run its instruction, with nothing else changed (log entry 1). -/
def Obligations.FetchWordRunsNext : Prop :=
  ∀ (s : State) (nbits w : Nat) (i : Instr), decodeTableWord nbits w = some i →
    step (s.withFetchWord nbits w) = exec i s

/-- With no command and no reset presented, the core holds all its state (R245; log entry 2). -/
def Obligations.NothingPresentedChangesNothing : Prop :=
  ∀ s : State, s.inputs = [] → step s = .next s

/-- Every step and every command answers a next state: a command fault is recorded and the core goes on. -/
def Obligations.EveryStepAnswersANextState : Prop :=
  (∀ s : State, ∃ t, step s = .next t) ∧ (∀ (i : Instr) (s : State), ∃ t, exec i s = .next t)

/-- R260: RST at a command boundary sets every register to its reset value, the initial state is the reset state, and no
other event clears ERR or ECODE. That the initial list of inputs is empty and that a reset leaves the list alone are the
model's own choice (log entry 1), no part of the rule. -/
def Obligations.ResetSetsEveryRegister : Prop :=
  State.reset =
    { lfsr := Lfsr.ofFn fun _ => 0, r1 := 0, r2 := 0, phase := .idle, rnd := 0, err := false, ecode := .noFault,
      zreg := 0, zv := false, inputs := [] } ∧
  (∀ (s : State) (b : HostInput) (rest : List HostInput), s.inputs = b :: rest → b.rst = true →
    step s = .next
      { lfsr := Lfsr.ofFn fun _ => 0, r1 := 0, r2 := 0, phase := .idle, rnd := 0, err := false, ecode := .noFault,
        zreg := 0, zv := false, inputs := rest }) ∧
  ∀ s t : State, step s = .next t →
    (s.err = true ∧ t.err = false) ∨ (s.ecode ≠ .noFault ∧ t.ecode = .noFault) →
    ∃ b rest, s.inputs = b :: rest ∧ b.rst = true

/-- R261: reset wins; the command presented with it has no effect, not even a fault, and the next command runs at the
reset state. -/
def Obligations.ResetWinsOverTheCommand : Prop :=
  ∀ (s : State) (b b' : HostInput) (rest : List HostInput), b.rst = true → b'.rst = true →
    ∃ t, step { s with inputs := b :: rest } = .next t ∧ step { s with inputs := b' :: rest } = .next t ∧
      t.err = false ∧ t.ecode = .noFault ∧
      ∀ (c : HostInput) (rest' : List HostInput) (i : Instr), rest = c :: rest' → c.rst = false → decode c = .cmd i →
        step t = exec i { State.reset with inputs := rest' }

/-! ## The commands -/

/-- R181: NOP changes nothing, in every phase. -/
def Obligations.NopChangesNothing : Prop :=
  ∀ s : State, exec .nop s = .next s

/-- R184: LOAD, in every phase, fills the cells by the table of the rule, clears R1, R2, RND, ZREG and ZV, sets PHASE to
INIT, and leaves ERR and ECODE. -/
def Obligations.LoadFillsTheCells : Prop :=
  ∀ (s : State) (m : Mode) (k : KeyBus) (v : IvBus), ∃ t, exec (.load m k v) s = .next t ∧
    (∀ i : Fin 16, i.val ≤ 6 → (t.lfsr.get i).toNat =
      (keyByte k i.val).toNat * 2 ^ 23 + (drom m i).toNat * 2 ^ 16 + (keyByte k (16 + i.val)).toNat * 2 ^ 8
        + (keyByte k (24 + i.val)).toNat) ∧
    (∀ i : Fin 16, 7 ≤ i.val → i.val ≤ 14 → (t.lfsr.get i).toNat =
      (keyByte k i.val).toNat * 2 ^ 23 + (drom m i).toNat * 2 ^ 16 + (ivByte v (i.val - 7)).toNat * 2 ^ 8
        + (ivByte v (i.val + 1)).toNat) ∧
    (t.lfsr.get 15).toNat =
      (keyByte k 15).toNat * 2 ^ 23 + (drom m 15).toNat * 2 ^ 16 + (keyByte k 23).toNat * 2 ^ 8
        + (keyByte k 31).toNat ∧
    t.r1 = 0 ∧ t.r2 = 0 ∧ t.phase = .init ∧ t.rnd = 0 ∧ t.zreg = 0 ∧ t.zv = false ∧
    t.err = s.err ∧ t.ecode = s.ecode ∧ t.inputs = s.inputs

/-- R52: the key and IV bytes on the buses, byte 0 in the most significant bits, with the rule's example. -/
def Obligations.KeyAndIvBytesOnTheBuses : Prop :=
  (∀ (k : KeyBus) (j : Nat), j < 32 → (keyByte k j).toNat = k.toNat / 2 ^ (248 - 8 * j) % 256) ∧
  (∀ (v : IvBus) (j : Nat), j < 16 → (ivByte v j).toNat = v.toNat / 2 ^ (120 - 8 * j) % 256) ∧
  (∀ j : Nat, j < 32 →
    (keyByte 0x000102030405060708090A0B0C0D0E0F101112131415161718191A1B1C1D1E1F j).toNat = j)

/-- R183: the four D tables; with MODE = (m1, m0), D[0] = 0x64 | m1, D[2] = 0x7B & ~m0, and every other entry is the
D_ENC entry; every entry is nonzero and at most 0x7B. -/
def Obligations.DTablesOfTheModes : Prop :=
  ∀ (m : Mode) (i : Fin 16),
    (drom .encrypt i).toNat =
      [0x64, 0x43, 0x7B, 0x2A, 0x11, 0x05, 0x51, 0x42, 0x1A, 0x31, 0x18, 0x66, 0x14, 0x2E, 0x01, 0x5C].getD i.val 0 ∧
    (drom m i).toNat =
      (if i = 0 then 0x64 + (modeBits m).toNat / 2
       else if i = 2 then 0x7B - (modeBits m).toNat % 2
       else (drom .encrypt i).toNat) ∧
    1 ≤ (drom m i).toNat ∧ (drom m i).toNat ≤ 0x7B

/-- R185: the bounds of every loaded cell, and the loaded cells of the all-zero and the all-0xFF key and IV. -/
def Obligations.LoadedCellBounds : Prop :=
  ∀ s : State,
    (∀ (m : Mode) (k : KeyBus) (v : IvBus), ∃ t, exec (.load m k v) s = .next t ∧
      ∀ i : Fin 16, 0x00010000 ≤ (t.lfsr.get i).toNat ∧ (t.lfsr.get i).toNat ≤ 0x7FFBFFFF) ∧
    (∃ t, exec (.load .encrypt 0 0) s = .next t ∧
      ∀ i : Fin 16, t.lfsr.get i = (drom .encrypt i).setWidth 31 <<< 16) ∧
    (∃ t, exec (.load .encrypt (BitVec.allOnes 256) (BitVec.allOnes 128)) s = .next t ∧
      (∀ i : Fin 16, t.lfsr.get i = 0x7F80FFFF ||| ((drom .encrypt i).setWidth 31 <<< 16)) ∧
      t.lfsr.get 2 = 0x7FFBFFFF ∧ ∀ i : Fin 16, (t.lfsr.get i).toNat ≤ 0x7FFBFFFF)

/-- Every key bit and every IV bit reaches the cells: two LOADs that leave the same cells had the same key and IV
(R184: every byte is placed exactly once). -/
def Obligations.LoadDropsNoKeyOrIvBit : Prop :=
  ∀ (s s' t t' : State) (m : Mode) (k k' : KeyBus) (v v' : IvBus),
    exec (.load m k v) s = .next t → exec (.load m k' v') s' = .next t' → t.lfsr = t'.lfsr → k = k' ∧ v = v'

/-- Nothing of the old cipher survives a LOAD: what it leaves depends on the old state through ERR and ECODE only, and a
second LOAD with the same operands changes nothing. -/
def Obligations.LoadStartsAFreshCipher : Prop :=
  (∀ (s s' : State) (m : Mode) (k : KeyBus) (v : IvBus),
    s.err = s'.err → s.ecode = s'.ecode → s.inputs = s'.inputs → exec (.load m k v) s = exec (.load m k v) s') ∧
  (∀ (s t : State) (m : Mode) (k : KeyBus) (v : IvBus),
    exec (.load m k v) s = .next t → exec (.load m k v) t = .next t)

/-- R186: INITR's round when PHASE = INIT and RND < 48, and CmdFault(2) otherwise. -/
def Obligations.InitrPerformsOneRound : Prop :=
  ∀ s : State,
    (s.phase = .init → s.rnd.val < 48 →
      let br := bitReorg s.lfsr
      let f := fStep br.x0 br.x1 br.x2 s.r1 s.r2
      let y := addMod31 (feedback s.lfsr) (BitVec.ofNat 31 (f.w.toNat / 2))
      ∃ t, exec .initr s = .next t ∧
        (∀ i : Fin 15, t.lfsr.get i.castSucc = s.lfsr.get i.succ) ∧
        t.lfsr.get 15 = (if y = 0 then 0x7FFFFFFF else y) ∧
        t.r1 = f.r1 ∧ t.r2 = f.r2 ∧ t.rnd.val = s.rnd.val + 1 ∧
        t.phase = s.phase ∧ t.err = s.err ∧ t.ecode = s.ecode ∧ t.zreg = s.zreg ∧ t.zv = s.zv ∧
        t.inputs = s.inputs) ∧
    (¬ (s.phase = .init ∧ s.rnd.val < 48) → exec .initr s = .next (cmdFault .initrPhase s))

/-- R188: INITF's working step when PHASE = INIT and RND = 48, its word written nowhere, and CmdFault(3) otherwise. -/
def Obligations.InitfPerformsTheDiscardedStep : Prop :=
  ∀ s : State,
    (s.phase = .init → s.rnd.val = 48 →
      let br := bitReorg s.lfsr
      let f := fStep br.x0 br.x1 br.x2 s.r1 s.r2
      let y := feedback s.lfsr
      ∃ t, exec .initf s = .next t ∧
        (∀ i : Fin 15, t.lfsr.get i.castSucc = s.lfsr.get i.succ) ∧
        t.lfsr.get 15 = (if y = 0 then 0x7FFFFFFF else y) ∧
        t.r1 = f.r1 ∧ t.r2 = f.r2 ∧ t.phase = .ready ∧
        t.rnd = s.rnd ∧ t.err = s.err ∧ t.ecode = s.ecode ∧ t.zreg = s.zreg ∧ t.zv = s.zv ∧
        t.inputs = s.inputs) ∧
    (¬ (s.phase = .init ∧ s.rnd.val = 48) → exec .initf s = .next (cmdFault .initfPhase s))

/-- R190: GEN's working step when PHASE = READY, with Z = W xor X3 in ZREG and ZV set, and CmdFault(4) otherwise. -/
def Obligations.GenEmitsOneKeystreamWord : Prop :=
  ∀ s : State,
    (s.phase = .ready →
      let br := bitReorg s.lfsr
      let f := fStep br.x0 br.x1 br.x2 s.r1 s.r2
      let y := feedback s.lfsr
      ∃ t, exec .gen s = .next t ∧
        zPort t = f.w ^^^ br.x3 ∧ t.zreg = f.w ^^^ br.x3 ∧ t.zv = true ∧
        (∀ i : Fin 15, t.lfsr.get i.castSucc = s.lfsr.get i.succ) ∧
        t.lfsr.get 15 = (if y = 0 then 0x7FFFFFFF else y) ∧
        t.r1 = f.r1 ∧ t.r2 = f.r2 ∧
        t.phase = s.phase ∧ t.rnd = s.rnd ∧ t.err = s.err ∧ t.ecode = s.ecode ∧ t.inputs = s.inputs) ∧
    (s.phase ≠ .ready → exec .gen s = .next (cmdFault .genPhase s))

/-- R87: a reserved word records fault 1 and changes nothing else, whatever its MODE. -/
def Obligations.ReservedWordRecordsFaultOne : Prop :=
  ∀ (s : State) (b : HostInput) (rest : List HostInput),
    s.inputs = b :: rest → b.rst = false → 5 ≤ b.cmd.toNat % 16 →
    step s = .next (cmdFault .reservedOp { s with inputs := rest })

/-- R232: recording a fault writes ECODE only when ERR was 0, ERR, and nothing else; the core goes on, and every later
command does to the cipher what it would have done without the fault, and leaves ERR set. -/
def Obligations.CmdFaultWritesOnlyErrAndEcode : Prop :=
  ∀ (c : ECode) (s : State),
    (s.err = false → cmdFault c s = { s with err := true, ecode := c }) ∧
    (s.err = true → cmdFault c s = s) ∧
    ∀ i : Instr, ∃ t u, exec i s = .next t ∧ exec i (cmdFault c s) = .next u ∧ sameCipher t u ∧ u.err = true

/-- R193: the legality of each command in each lifecycle state, and the state it leaves. -/
def Obligations.LifecycleTable : Prop :=
  ∀ s : State,
    exec .nop s = .next s ∧
    (∀ m k v, ∃ t, exec (.load m k v) s = .next t ∧ t.phase = .init ∧ t.rnd = 0 ∧ t.err = s.err) ∧
    (s.phase = .idle →
      exec .initr s = .next (cmdFault .initrPhase s) ∧ exec .initf s = .next (cmdFault .initfPhase s) ∧
      exec .gen s = .next (cmdFault .genPhase s)) ∧
    (s.phase = .init → s.rnd.val < 48 →
      (∃ t, exec .initr s = .next t ∧ t.phase = .init ∧ t.rnd.val = s.rnd.val + 1 ∧ t.err = s.err) ∧
      exec .initf s = .next (cmdFault .initfPhase s) ∧ exec .gen s = .next (cmdFault .genPhase s)) ∧
    (s.phase = .init → s.rnd.val = 48 →
      exec .initr s = .next (cmdFault .initrPhase s) ∧
      (∃ t, exec .initf s = .next t ∧ t.phase = .ready ∧ t.rnd = s.rnd ∧ t.err = s.err) ∧
      exec .gen s = .next (cmdFault .genPhase s)) ∧
    (s.phase = .ready →
      exec .initr s = .next (cmdFault .initrPhase s) ∧ exec .initf s = .next (cmdFault .initfPhase s) ∧
      (∃ t, exec .gen s = .next t ∧ t.phase = .ready ∧ t.zv = true ∧ t.zreg = workWord s ∧ t.err = s.err)) ∧
    (∀ b : HostInput, b.rst = false → 5 ≤ b.cmd.toNat % 16 →
      step (present b s) = .next (cmdFault .reservedOp s))

/-- Which command writes which register: PHASE by LOAD and INITF, RND by LOAD and INITR, ZREG and ZV by LOAD and GEN, S, R1
and R2 by every command but NOP, ERR and ECODE by none that leaves ERR as it was, and no command touches what the host
will present. -/
def Obligations.WritersOfEachRegister : Prop :=
  ∀ (i : Instr) (s t : State), exec i s = .next t →
    t.inputs = s.inputs ∧
    (t.phase ≠ s.phase → (∃ m k v, i = .load m k v) ∨ i = .initf) ∧
    (t.rnd ≠ s.rnd → (∃ m k v, i = .load m k v) ∨ i = .initr) ∧
    (t.zreg ≠ s.zreg ∨ t.zv ≠ s.zv → (∃ m k v, i = .load m k v) ∨ i = .gen) ∧
    (t.lfsr ≠ s.lfsr ∨ t.r1 ≠ s.r1 ∨ t.r2 ≠ s.r2 → i ≠ .nop) ∧
    (t.ecode ≠ s.ecode → s.err = false ∧ t.err = true) ∧
    (t.err ≠ s.err → t.err = true ∧ (i = .initr ∨ i = .initf ∨ i = .gen) ∧ sameCipher s t)

/-- ERR is sticky and ECODE keeps the first cause: whatever is presented, other than a reset, a step from ERR = 1 keeps
both. -/
def Obligations.ErrorIsStickyUntilReset : Prop :=
  ∀ (s : State), (∀ b ∈ s.inputs.head?, b.rst = false) → s.err = true →
    ∃ t, step s = .next t ∧ t.err = true ∧ t.ecode = s.ecode

/-- R30: the layout of STATUS, its reserved bits 0. -/
def Obligations.StatusLayout : Prop :=
  ∀ s : State, (status s).toNat =
    (match s.phase with
      | .idle => 0
      | .init => 1
      | .ready => 2)
    + 4 * s.zv.toNat + 8 * s.err.toNat
    + 16 * (match s.ecode with
      | .noFault => 0
      | .reservedOp => 1
      | .initrPhase => 2
      | .initfPhase => 3
      | .genPhase => 4)
    + 256 * s.rnd.val

/-! ## The datapath -/

/-- R111: the laws of the adder. -/
def Obligations.AdderLaws : Prop :=
  (∀ a b : Cell,
    (addMod31 a b).toNat ≤ 2147483647 ∧
    (addMod31 a b).toNat % 2147483647 = (a.toNat + b.toNat) % 2147483647 ∧
    (addMod31 a b = 0 ↔ a = 0 ∧ b = 0) ∧
    (∀ r : Nat, 0 < a.toNat + b.toNat → 1 ≤ r → r ≤ 2147483647 →
      r % 2147483647 = (a.toNat + b.toNat) % 2147483647 → r = (addMod31 a b).toNat) ∧
    (fold31 (a.setWidth 32 + b.setWidth 32)).toNat ≤ 2147483647 ∧
    fold31 (fold31 (a.setWidth 32 + b.setWidth 32)) = fold31 (a.setWidth 32 + b.setWidth 32) ∧
    (addMod31 a b).toNat = rep (a.toNat + b.toNat) ∧
    addMod31 a b = addMod31 b a ∧
    ∀ c : Cell, addMod31 (addMod31 a b) c = addMod31 a (addMod31 b c)) ∧
  ∀ xs : List Cell, (xs.foldl addMod31 0).toNat = rep (xs.map BitVec.toNat).sum

/-- R112: the 31-bit rotator, bit by bit, for the amounts the core uses. -/
def Obligations.RotatorMovesBitsLeft : Prop :=
  ∀ (s : Cell) (k i : Nat), k ∈ [8, 15, 17, 20, 21] → i < 31 →
    (mul31 s k).getLsbD i = s.getLsbD ((i + 31 - k) % 31)

/-- R113: the laws of the rotator, with the five values of the rule. -/
def Obligations.RotatorMultipliesByAPowerOfTwo : Prop :=
  (∀ (s : Cell) (k : Nat), k ∈ [8, 15, 17, 20, 21] →
    (mul31 s k).toNat % 2147483647 = (2 ^ k * s.toNat) % 2147483647 ∧
    (mul31 s k = 0 ↔ s = 0) ∧ mul31 (BitVec.allOnes 31) k = BitVec.allOnes 31 ∧
    Function.Bijective (fun x : Cell => mul31 x k) ∧
    ∀ j ∈ [8, 15, 17, 20, 21], mul31 (mul31 s j) k = mul31 s ((j + k) % 31)) ∧
  mul31 0x12345678 8 = 0x34567824 ∧ mul31 0x12345678 15 = 0x2B3C1234 ∧ mul31 0x12345678 17 = 0x2CF048D1 ∧
  mul31 0x12345678 20 = 0x6782468A ∧ mul31 0x12345678 21 = 0x4F048D15

/-- R117, R118: L1 and L2, bit by bit. That rot32 turns to the left is R114's, which the spec takes from general knowledge
(GK2); the direction is PRESUMED in log entry 4. -/
def Obligations.LinearTransformsBitByBit : Prop :=
  ∀ (x : Word) (i : Nat), i < 32 →
    (l1 x).getLsbD i =
      (x.getLsbD i ^^ x.getLsbD ((i + 30) % 32) ^^ x.getLsbD ((i + 22) % 32) ^^ x.getLsbD ((i + 14) % 32)
        ^^ x.getLsbD ((i + 8) % 32)) ∧
    (l2 x).getLsbD i =
      (x.getLsbD i ^^ x.getLsbD ((i + 24) % 32) ^^ x.getLsbD ((i + 18) % 32) ^^ x.getLsbD ((i + 10) % 32)
        ^^ x.getLsbD ((i + 2) % 32))

/-- R119: L1 and L2 are linear over GF(2), fixed by their values on the single-bit words, and commute with every
rotation. -/
def Obligations.LinearTransformsAreLinear : Prop :=
  ∀ f ∈ [l1, l2],
    (∀ x y : Word, f (x ^^^ y) = f x ^^^ f y) ∧
    (∀ (x : Word) (j : Nat), j < 32 → f (rot32 x j) = rot32 (f x) j) ∧
    (∀ x : Word, f x = (List.range 32).foldl
      (fun acc i => if x.getLsbD i then acc ^^^ f (BitVec.twoPow 32 i) else acc) 0)

/-- R132: S is four byte lookups, S0 in lanes 3 and 1, S1 in lanes 2 and 0. -/
def Obligations.SubstitutionByLanes : Prop :=
  ∀ a : Word, (sbox a).toNat =
    (s0rom (BitVec.ofNat 8 (a.toNat / 2 ^ 24))).toNat * 2 ^ 24 + (s1rom (BitVec.ofNat 8 (a.toNat / 2 ^ 16))).toNat * 2 ^ 16
      + (s0rom (BitVec.ofNat 8 (a.toNat / 2 ^ 8))).toNat * 2 ^ 8 + (s1rom (BitVec.ofNat 8 a.toNat)).toNat

/-- S0ROM and S1ROM at every address, by the rows of R130 and R131: row the high hex digit, column the low one. The
contents are the spec's general knowledge (GK1), PRESUMED in log entry 3. -/
def Obligations.SubstitutionTablesAtEveryAddress : Prop :=
  ∀ a : Byte,
    (s0rom a).toNat = (([ [0x3E, 0x72, 0x5B, 0x47, 0xCA, 0xE0, 0x00, 0x33, 0x04, 0xD1, 0x54, 0x98, 0x09, 0xB9, 0x6D, 0xCB],
      [0x7B, 0x1B, 0xF9, 0x32, 0xAF, 0x9D, 0x6A, 0xA5, 0xB8, 0x2D, 0xFC, 0x1D, 0x08, 0x53, 0x03, 0x90],
      [0x4D, 0x4E, 0x84, 0x99, 0xE4, 0xCE, 0xD9, 0x91, 0xDD, 0xB6, 0x85, 0x48, 0x8B, 0x29, 0x6E, 0xAC],
      [0xCD, 0xC1, 0xF8, 0x1E, 0x73, 0x43, 0x69, 0xC6, 0xB5, 0xBD, 0xFD, 0x39, 0x63, 0x20, 0xD4, 0x38],
      [0x76, 0x7D, 0xB2, 0xA7, 0xCF, 0xED, 0x57, 0xC5, 0xF3, 0x2C, 0xBB, 0x14, 0x21, 0x06, 0x55, 0x9B],
      [0xE3, 0xEF, 0x5E, 0x31, 0x4F, 0x7F, 0x5A, 0xA4, 0x0D, 0x82, 0x51, 0x49, 0x5F, 0xBA, 0x58, 0x1C],
      [0x4A, 0x16, 0xD5, 0x17, 0xA8, 0x92, 0x24, 0x1F, 0x8C, 0xFF, 0xD8, 0xAE, 0x2E, 0x01, 0xD3, 0xAD],
      [0x3B, 0x4B, 0xDA, 0x46, 0xEB, 0xC9, 0xDE, 0x9A, 0x8F, 0x87, 0xD7, 0x3A, 0x80, 0x6F, 0x2F, 0xC8] ] ++
     [ [0xB1, 0xB4, 0x37, 0xF7, 0x0A, 0x22, 0x13, 0x28, 0x7C, 0xCC, 0x3C, 0x89, 0xC7, 0xC3, 0x96, 0x56],
      [0x07, 0xBF, 0x7E, 0xF0, 0x0B, 0x2B, 0x97, 0x52, 0x35, 0x41, 0x79, 0x61, 0xA6, 0x4C, 0x10, 0xFE],
      [0xBC, 0x26, 0x95, 0x88, 0x8A, 0xB0, 0xA3, 0xFB, 0xC0, 0x18, 0x94, 0xF2, 0xE1, 0xE5, 0xE9, 0x5D],
      [0xD0, 0xDC, 0x11, 0x66, 0x64, 0x5C, 0xEC, 0x59, 0x42, 0x75, 0x12, 0xF5, 0x74, 0x9C, 0xAA, 0x23],
      [0x0E, 0x86, 0xAB, 0xBE, 0x2A, 0x02, 0xE7, 0x67, 0xE6, 0x44, 0xA2, 0x6C, 0xC2, 0x93, 0x9F, 0xF1],
      [0xF6, 0xFA, 0x36, 0xD2, 0x50, 0x68, 0x9E, 0x62, 0x71, 0x15, 0x3D, 0xD6, 0x40, 0xC4, 0xE2, 0x0F],
      [0x8E, 0x83, 0x77, 0x6B, 0x25, 0x05, 0x3F, 0x0C, 0x30, 0xEA, 0x70, 0xB7, 0xA1, 0xE8, 0xA9, 0x65],
      [0x8D, 0x27, 0x1A, 0xDB, 0x81, 0xB3, 0xA0, 0xF4, 0x45, 0x7A, 0x19, 0xDF, 0xEE, 0x78, 0x34, 0x60] ] : List (List Nat)).getD (a.toNat / 16) []).getD (a.toNat % 16) 0 ∧
    (s1rom a).toNat = (([ [0x55, 0xC2, 0x63, 0x71, 0x3B, 0xC8, 0x47, 0x86, 0x9F, 0x3C, 0xDA, 0x5B, 0x29, 0xAA, 0xFD, 0x77],
      [0x8C, 0xC5, 0x94, 0x0C, 0xA6, 0x1A, 0x13, 0x00, 0xE3, 0xA8, 0x16, 0x72, 0x40, 0xF9, 0xF8, 0x42],
      [0x44, 0x26, 0x68, 0x96, 0x81, 0xD9, 0x45, 0x3E, 0x10, 0x76, 0xC6, 0xA7, 0x8B, 0x39, 0x43, 0xE1],
      [0x3A, 0xB5, 0x56, 0x2A, 0xC0, 0x6D, 0xB3, 0x05, 0x22, 0x66, 0xBF, 0xDC, 0x0B, 0xFA, 0x62, 0x48],
      [0xDD, 0x20, 0x11, 0x06, 0x36, 0xC9, 0xC1, 0xCF, 0xF6, 0x27, 0x52, 0xBB, 0x69, 0xF5, 0xD4, 0x87],
      [0x7F, 0x84, 0x4C, 0xD2, 0x9C, 0x57, 0xA4, 0xBC, 0x4F, 0x9A, 0xDF, 0xFE, 0xD6, 0x8D, 0x7A, 0xEB],
      [0x2B, 0x53, 0xD8, 0x5C, 0xA1, 0x14, 0x17, 0xFB, 0x23, 0xD5, 0x7D, 0x30, 0x67, 0x73, 0x08, 0x09],
      [0xEE, 0xB7, 0x70, 0x3F, 0x61, 0xB2, 0x19, 0x8E, 0x4E, 0xE5, 0x4B, 0x93, 0x8F, 0x5D, 0xDB, 0xA9] ] ++
     [ [0xAD, 0xF1, 0xAE, 0x2E, 0xCB, 0x0D, 0xFC, 0xF4, 0x2D, 0x46, 0x6E, 0x1D, 0x97, 0xE8, 0xD1, 0xE9],
      [0x4D, 0x37, 0xA5, 0x75, 0x5E, 0x83, 0x9E, 0xAB, 0x82, 0x9D, 0xB9, 0x1C, 0xE0, 0xCD, 0x49, 0x89],
      [0x01, 0xB6, 0xBD, 0x58, 0x24, 0xA2, 0x5F, 0x38, 0x78, 0x99, 0x15, 0x90, 0x50, 0xB8, 0x95, 0xE4],
      [0xD0, 0x91, 0xC7, 0xCE, 0xED, 0x0F, 0xB4, 0x6F, 0xA0, 0xCC, 0xF0, 0x02, 0x4A, 0x79, 0xC3, 0xDE],
      [0xA3, 0xEF, 0xEA, 0x51, 0xE6, 0x6B, 0x18, 0xEC, 0x1B, 0x2C, 0x80, 0xF7, 0x74, 0xE7, 0xFF, 0x21],
      [0x5A, 0x6A, 0x54, 0x1E, 0x41, 0x31, 0x92, 0x35, 0xC4, 0x33, 0x07, 0x0A, 0xBA, 0x7E, 0x0E, 0x34],
      [0x88, 0xB1, 0x98, 0x7C, 0xF3, 0x3D, 0x60, 0x6C, 0x7B, 0xCA, 0xD3, 0x1F, 0x32, 0x65, 0x04, 0x28],
      [0x64, 0xBE, 0x85, 0x9B, 0x2F, 0x59, 0x8A, 0xD7, 0xB0, 0x25, 0xAC, 0xAF, 0x12, 0x03, 0xE2, 0xF2] ] : List (List Nat)).getD (a.toNat / 16) []).getD (a.toNat % 16) 0

/-- Each S-box table is a permutation of the bytes (R133 (1)), so S is a permutation of the words. The tables' contents are
PRESUMED in log entry 3. -/
def Obligations.SubstitutionIsAPermutation : Prop :=
  Function.Bijective s0rom ∧ Function.Bijective s1rom ∧ Function.Bijective sbox

/-- R141: the feedback is the representative of the weighted sum, and 0 only when its five cells are. -/
def Obligations.FeedbackIsTheWeightedSum : Prop :=
  ∀ l : Lfsr,
    (feedback l).toNat =
      rep (2 ^ 15 * l.s15.toNat + 2 ^ 17 * l.s13.toNat + 2 ^ 21 * l.s10.toNat + 2 ^ 20 * l.s4.toNat
        + (1 + 2 ^ 8) * l.s0.toNat) ∧
    (feedback l).toNat % 2147483647 =
      (2 ^ 15 * l.s15.toNat + 2 ^ 17 * l.s13.toNat + 2 ^ 21 * l.s10.toNat + 2 ^ 20 * l.s4.toNat
        + (1 + 2 ^ 8) * l.s0.toNat) % 2147483647 ∧
    (feedback l = 0 ↔ l.s0 = 0 ∧ l.s4 = 0 ∧ l.s10 = 0 ∧ l.s13 = 0 ∧ l.s15 = 0) ∧
    (cellsNonzero l → 1 ≤ (feedback l).toNat ∧ (feedback l).toNat ≤ 2147483647)

/-- R142: SHIFT moves every cell one place, drops the oldest, and never writes 0 to the newest. -/
def Obligations.ShiftMovesEveryCell : Prop :=
  ∀ (l : Lfsr) (y : Cell),
    (∀ i : Fin 15, (lfsrShift l y).get i.castSucc = l.get i.succ) ∧
    (lfsrShift l y).get 15 = (if y = 0 then 0x7FFFFFFF else y) ∧
    (lfsrShift l y).get 15 ≠ 0

/-- In a state with nonzero cells the replacement of 0 never fires, in either update mode (R143). -/
def Obligations.ZeroReplacementNeverFires : Prop :=
  ∀ (l : Lfsr) (u : Cell), cellsNonzero l →
    (lfsrWork l).get 15 = feedback l ∧ (lfsrInit l u).get 15 = addMod31 (feedback l) u ∧
    cellsNonzero (lfsrWork l) ∧ cellsNonzero (lfsrInit l u)

/-- R160: the four words of BR, as numbers. -/
def Obligations.BitReorganizationSplicesHalves : Prop :=
  ∀ l : Lfsr,
    (bitReorg l).x0.toNat = l.s15.toNat / 2 ^ 15 * 2 ^ 16 + l.s14.toNat % 2 ^ 16 ∧
    (bitReorg l).x1.toNat = l.s11.toNat % 2 ^ 16 * 2 ^ 16 + l.s9.toNat / 2 ^ 15 ∧
    (bitReorg l).x2.toNat = l.s7.toNat % 2 ^ 16 * 2 ^ 16 + l.s5.toNat / 2 ^ 15 ∧
    (bitReorg l).x3.toNat = l.s2.toNat % 2 ^ 16 * 2 ^ 16 + l.s0.toNat / 2 ^ 15

/-- R162-R164: F's output and its new registers, all from the values before the update. -/
def Obligations.FOutputAndRegisterUpdate : Prop :=
  ∀ x0 x1 x2 r1 r2 : Word,
    let w1 := (r1.toNat + x1.toNat) % 2 ^ 32
    let w2 := (r2 ^^^ x2).toNat
    (fStep x0 x1 x2 r1 r2).w.toNat = ((x0 ^^^ r1).toNat + r2.toNat) % 2 ^ 32 ∧
    (fStep x0 x1 x2 r1 r2).r1 = sbox (l1 (BitVec.ofNat 32 (w1 % 2 ^ 16 * 2 ^ 16 + w2 / 2 ^ 16))) ∧
    (fStep x0 x1 x2 r1 r2).r2 = sbox (l2 (BitVec.ofNat 32 (w2 % 2 ^ 16 * 2 ^ 16 + w1 / 2 ^ 16)))

/-! ## The whole machine -/

/-- The invariant holds after reset. -/
def Obligations.InvariantHoldsAtReset : Prop := Inv State.reset

/-- Every step keeps the invariant, from every state that meets it, whatever the host presents (R22, R25, R34, R231,
R234). -/
def Obligations.EveryStepKeepsTheInvariant : Prop :=
  ∀ s t : State, Inv s → step s = .next t → Inv t

/-- The fault history never reaches the cipher: two cores that agree on S, R1, R2, PHASE, RND, ZREG and ZV and are
presented the same input agree on them afterwards, whatever their ERR and ECODE (R26: read by no command). -/
def Obligations.FaultHistoryNeverReachesTheCipher : Prop :=
  ∀ (s t : State) (b : HostInput), sameCipher s t →
    ∃ s' t', step (present b s) = .next s' ∧ step (present b t) = .next t' ∧ sameCipher s' t'

/-- A host that changes KEY, IVB or MODE where the operation is not LOAD changes nothing (R85, R268). -/
def Obligations.BusesAreReadByLoadOnly : Prop :=
  ∀ (s : State) (b b' : HostInput) (rest : List HostInput), b.rst = false → b'.rst = false →
    b.cmd.toNat % 16 = b'.cmd.toNat % 16 → b.cmd.toNat % 16 ≠ 1 →
    step { s with inputs := b :: rest } = step { s with inputs := b' :: rest }

/-- After NEW, from any state, the core is READY with RND = 48, ZV = 0, Z = 0 and no fault recorded on the way, and its
cipher state depends on mode, key and IV only (R192, R194). -/
def Obligations.NewReachesReady : Prop :=
  ∀ (s s' : State) (m : Mode) (k : KeyBus) (v : IvBus), ∃ t t',
    Host.Core.run Sys2Proof.core 50 (presentAll (newSeq m k v) s) = .next t ∧
    Host.Core.run Sys2Proof.core 50 (presentAll (newSeq m k v) s') = .next t' ∧
    t.phase = .ready ∧ t.rnd = 48 ∧ t.zv = false ∧ t.zreg = 0 ∧ cellsNonzero t.lfsr ∧
    t.err = s.err ∧ t.ecode = s.ecode ∧ t.inputs = s.inputs ∧ sameCipher t t'

/-- There is no limit on GEN: any number of them completes in READY (R273), and the host that issues them and reads Z after
each has the words the core showed and the core they leave (R91). -/
def Obligations.AnyNumberOfGenCompletes : Prop :=
  ∀ (n : Nat) (s : State), s.phase = .ready → ∃ zs t,
    keystreamWords n s zs t ∧ hostGens n s = .ok (zs, t) ∧
    t.phase = .ready ∧ t.rnd = s.rnd ∧ t.err = s.err ∧ t.ecode = s.ecode ∧ t.inputs = s.inputs ∧
    (0 < n → t.zv = true)

/-- The keystream is a function of the number of GENs: in READY, any sequence of commands without LOAD and reset leaves the
cipher state and the word that its GENs alone leave (R194, R266). -/
def Obligations.KeystreamIgnoresNopsAndFaults : Prop :=
  ∀ (s : State) (bs : List HostInput), s.phase = .ready →
    (∀ b ∈ bs, b.rst = false ∧ b.cmd.toNat % 16 ≠ 1) → ∃ t u,
    Host.Core.run Sys2Proof.core bs.length (presentAll bs s) = .next t ∧
    Host.Core.run Sys2Proof.core (bs.countP fun b => b.cmd.toNat % 16 == 4)
      (presentAll (gennSeq (bs.countP fun b => b.cmd.toNat % 16 == 4)) s) = .next u ∧
    sameCipher t u ∧ t.inputs = s.inputs

/-- Commands to different instances commute, and a step of one instance leaves every other as it was (R61, R243). -/
def Obligations.InstancesShareNothing : Prop :=
  ∀ (p : Config.OpenParams) (c : Platform p) (i j : Fin p.nCores), i ≠ j → ∃ ci cj cij : Platform p,
    Platform.stepAt i c = .next ci ∧ Platform.stepAt j ci = .next cij ∧
    Platform.stepAt j c = .next cj ∧ Platform.stepAt i cj = .next cij ∧
    ci.get j = c.get j ∧ step (c.get i) = .next (ci.get i)

/-! ## The host procedures -/

/-- apply_keystream issues exactly ceil(n/4) GEN commands and XORs the data with the bytes of the words the core shows on Z
after each of them, the low bytes of the last word dropped; n = 0 issues none (R210). -/
def Obligations.ApplyKeystreamXorsTheWords : Prop :=
  ∀ (s : State) (data : List Byte), s.phase = .ready → ∃ zs t,
    keystreamWords ((data.length + 3) / 4) s zs t ∧ hostGens ((data.length + 3) / 4) s = .ok (zs, t) ∧
    t.phase = .ready ∧
    ∃ out, applyKeystream data s = .ok (out, t) ∧ out.length = data.length ∧
      ∀ i < data.length,
        out.getD i 0 = data.getD i 0 ^^^ (zs.getD (i / 4) 0).extractLsb' (24 - 8 * (i % 4)) 8

/-- R212: apply_keystream on the result of apply_keystream, each on a core after the same NEW, gives back the data. -/
def Obligations.ApplyKeystreamIsAnInvolution : Prop :=
  ∀ (s s' : State) (m : Mode) (k : KeyBus) (v : IvBus) (data : List Byte), ∃ t t' c u u',
    Host.Core.run Sys2Proof.core 50 (presentAll (newSeq m k v) s) = .next t ∧
    Host.Core.run Sys2Proof.core 50 (presentAll (newSeq m k v) s') = .next t' ∧
    applyKeystream data t = .ok (c, u) ∧ c.length = data.length ∧ applyKeystream c t' = .ok (data, u')

/-- Calls whose lengths but the last are multiples of 4 equal one call over the concatenation (R211, C2). -/
def Obligations.WholeWordCallsConcatenate : Prop :=
  ∀ (s : State) (a b : List Byte), s.phase = .ready → a.length % 4 = 0 → ∃ x t y u,
    applyKeystream a s = .ok (x, t) ∧ applyKeystream b t = .ok (y, u) ∧
    applyKeystream (a ++ b) s = .ok (x ++ y, u)

/-- A call that breaks its contract is refused and issues no GEN: it gives no core to go on with (R213, D29). The order of
generate_mac's checks, which decides the name of the refusal where several hold, and the refusal of apply_keystream on
zero bytes outside READY are the model's own (DESIGN CHOICE and DEDUCED, log entry 13). -/
def Obligations.BrokenHostContractsAreRefused : Prop :=
  ∀ (s : State) (data msg : List Byte) (l t : Nat),
    (t ∉ [32, 64, 128] → generateMac msg l t s = .error .macTagBits) ∧
    (t ∈ [32, 64, 128] → 8 * msg.length < l → generateMac msg l t s = .error .macMessageBits) ∧
    (t ∈ [32, 64, 128] → l ≤ 8 * msg.length → s.phase ≠ .ready → generateMac msg l t s = .error .hostCoreNotReady) ∧
    (s.phase ≠ .ready → applyKeystream data s = .error .hostCoreNotReady)

/-- Wsl packs the bits p .. p + n - 1 of the keystream MSB-first, padded with 0, and is refused exactly when it reaches past
the words (R216, R217). -/
def Obligations.SliceExtractsKeystreamBits : Prop :=
  ∀ (zw : List Word) (p n : Nat),
    (p + n ≤ 32 * zw.length → ∃ o, wsl zw p n = .ok o ∧ o.length = (n + 7) / 8 ∧
      (∀ i < n, (o.getD (i / 8) 0).getLsbD (7 - i % 8) = (zw.getD ((p + i) / 32) 0).getLsbD (31 - (p + i) % 32)) ∧
      (∀ i, n ≤ i → i < 8 * ((n + 7) / 8) → (o.getD (i / 8) 0).getLsbD (7 - i % 8) = false)) ∧
    (32 * zw.length < p + n → 0 < n → wsl zw p n = .error .sliceOutOfRange)

/-- generate_mac on a valid call completes, consumes exactly the ceil((l + 2t) / 32) words the core shows on Z, and bit j of its tag is
Kbit(j) xor Kbit(l + t + j) xor the Kbit(t + i + j) of the message bits i < l that are 1 (R214-R218). -/
def Obligations.MacTagBits : Prop :=
  ∀ (s : State) (msg : List Byte) (l t : Nat), s.phase = .ready → t ∈ [32, 64, 128] → l ≤ 8 * msg.length →
    ∃ zw u tag, keystreamWords ((l + 2 * t + 31) / 32) s zw u ∧ hostGens ((l + 2 * t + 31) / 32) s = .ok (zw, u) ∧
      u.phase = .ready ∧
      generateMac msg l t s = .ok (tag, u) ∧ tag.length = t / 8 ∧
      ∀ j < t,
        let kbit := fun q : Nat => (zw.getD (q / 32) 0).getLsbD (31 - q % 32)
        (tag.getD (j / 8) 0).getLsbD (7 - j % 8) =
          (kbit j ^^ kbit (l + t + j) ^^
            (List.range l).foldl
              (fun acc i => acc ^^ ((msg.getD (i / 8) 0).getLsbD (7 - i % 8) && kbit (t + i + j))) false)
end

