-- ==== Sys2Proof/Laws/Arith.lean ====
section
/-! SUPPORT. The laws of the combinational datapath: one lemma per operation, in the terms later proofs use. -/

namespace Sys2Proof.Machine

/-- One fold of a 32-bit sum, as a number. -/
theorem fold31_toNat (c : Word) : (fold31 c).toNat = c.toNat % 2147483648 + c.toNat / 2147483648 := by
  unfold fold31
  simp [BitVec.toNat_add, BitVec.extractLsb'_toNat, BitVec.toNat_setWidth, Nat.shiftRight_eq_div_pow]
  have hc := c.isLt
  have hd : c.toNat / 2147483648 < 2 := Nat.div_lt_of_lt_mul hc
  have hm : c.toNat / 2147483648 % 2 = c.toNat / 2147483648 := Nat.mod_eq_of_lt hd
  rw [hm]
  omega

/-- The adder as a number: the sum, less 2^31 - 1 when it reaches 2^31. -/
theorem addMod31_toNat (a b : Cell) :
    (addMod31 a b).toNat =
      if a.toNat + b.toNat < 2147483648 then a.toNat + b.toNat else a.toNat + b.toNat - 2147483647 := by
  have ha := a.isLt
  have hb := b.isLt
  unfold addMod31
  simp only [BitVec.extractLsb'_toNat, fold31_toNat, BitVec.toNat_add, BitVec.toNat_setWidth, Nat.shiftRight_zero]
  split <;> omega

/-- The sum of the adder is 0 only for two zero operands. -/
theorem addMod31_eq_zero {a b : Cell} : addMod31 a b = 0 ↔ a = 0 ∧ b = 0 := by
  have h := addMod31_toNat a b
  have ha := a.isLt
  have hb := b.isLt
  simp only [← BitVec.toNat_inj, h, BitVec.ofNat_eq_ofNat, BitVec.toNat_ofNat]
  split <;> omega

/-- The 31-bit rotator, bit by bit. -/
theorem mul31_getLsbD (s : Cell) (k i : Nat) (hk : k < 31) (hi : i < 31) :
    (mul31 s k).getLsbD i = s.getLsbD ((i + 31 - k) % 31) := by
  unfold mul31
  simp only [BitVec.getLsbD_or, BitVec.getLsbD_shiftLeft, BitVec.getLsbD_ushiftRight, hi, decide_true, Bool.true_and]
  by_cases h : i < k
  · have h1 : (i + 31 - k) % 31 = 31 - k + i := by omega
    simp [h, h1]
  · have h1 : (i + 31 - k) % 31 = i - k := by omega
    have h2 : s.getLsbD (31 - k + i) = false := BitVec.getLsbD_of_ge _ _ (by omega)
    simp [h, h1, h2]

/-- The rotator maps only 0 to 0. -/
theorem mul31_eq_zero {s : Cell} {k : Nat} (hk : k < 31) : mul31 s k = 0 ↔ s = 0 := by
  constructor
  · intro h
    apply BitVec.eq_of_getLsbD_eq
    intro i hi
    have h1 := mul31_getLsbD s k ((i + k) % 31) hk (Nat.mod_lt _ (by omega))
    have h2 : ((i + k) % 31 + 31 - k) % 31 = i := by omega
    rw [h, h2] at h1
    simpa using h1.symm
  · rintro rfl
    simp [mul31]

/-- The 32-bit rotator, bit by bit. -/
theorem rot32_getLsbD (x : Word) (k i : Nat) (hk : k < 32) (hi : i < 32) :
    (rot32 x k).getLsbD i = x.getLsbD ((i + 32 - k) % 32) := by
  unfold rot32
  simp only [BitVec.getLsbD_or, BitVec.getLsbD_shiftLeft, BitVec.getLsbD_ushiftRight, hi, decide_true, Bool.true_and]
  by_cases h : i < k
  · have h1 : (i + 32 - k) % 32 = 32 - k + i := by omega
    simp [h, h1]
  · have h1 : (i + 32 - k) % 32 = i - k := by omega
    have h2 : x.getLsbD (32 - k + i) = false := BitVec.getLsbD_of_ge _ _ (by omega)
    simp [h, h1, h2]

/-- The 32-bit rotator distributes over exclusive OR. -/
theorem rot32_xor (x y : Word) (k : Nat) (hk : k < 32) : rot32 (x ^^^ y) k = rot32 x k ^^^ rot32 y k := by
  apply BitVec.eq_of_getLsbD_eq
  intro i hi
  simp [rot32_getLsbD _ k i hk hi]

/-- Rotations by j and by k commute. -/
theorem rot32_comm (x : Word) (j k : Nat) (hj : j < 32) (hk : k < 32) : rot32 (rot32 x j) k = rot32 (rot32 x k) j := by
  apply BitVec.eq_of_getLsbD_eq
  intro i hi
  rw [rot32_getLsbD _ k i hk hi, rot32_getLsbD _ j _ hj (Nat.mod_lt _ (by omega)), rot32_getLsbD _ j i hj hi,
    rot32_getLsbD _ k _ hk (Nat.mod_lt _ (by omega))]
  congr 1
  omega

end Sys2Proof.Machine
end

