-- ==== Sys2Proof/Laws/Decode.lean ====
section
/-! SUPPORT. The laws of the decoder: its fields as numbers, and its answer for each OP. -/

namespace Sys2Proof

theorem opField_toNat (w : CmdWord) : (opField w).toNat = w.toNat % 16 := by
  simp [opField, BitVec.extractLsb'_toNat]

theorem modeField_toNat (w : CmdWord) : (modeField w).toNat = w.toNat / 16 := by
  have := w.isLt
  simp only [modeField, BitVec.extractLsb'_toNat, Nat.shiftRight_eq_div_pow]
  omega

/-- A command word is its MODE above its OP. -/
theorem fields_append (w : CmdWord) : modeField w ++ opField w = w := by
  revert w; decide

theorem modeOfBits_modeBits (m : Mode) : modeOfBits (modeBits m) = m := by cases m <;> decide

theorem modeBits_modeOfBits (b : BitVec 2) : modeBits (modeOfBits b) = b := by revert b; decide

theorem decode_nop {b : HostInput} (h : opField b.cmd = 0) : decode b = .cmd .nop := by simp [decode, h]

theorem decode_load {b : HostInput} (h : opField b.cmd = 1) :
    decode b = .cmd (.load (modeOfBits (modeField b.cmd)) b.key b.ivb) := by simp [decode, h]

theorem decode_initr {b : HostInput} (h : opField b.cmd = 2) : decode b = .cmd .initr := by simp [decode, h]

theorem decode_initf {b : HostInput} (h : opField b.cmd = 3) : decode b = .cmd .initf := by simp [decode, h]

theorem decode_gen {b : HostInput} (h : opField b.cmd = 4) : decode b = .cmd .gen := by simp [decode, h]

theorem decode_reserved {b : HostInput} (h : 5 ≤ (opField b.cmd).toNat) : decode b = .reserved (opField b.cmd) := by
  have hn : ∀ k : Nat, k < 5 → opField b.cmd ≠ BitVec.ofNat 4 k := by
    intro k hk he
    rw [he, BitVec.toNat_ofNat] at h
    omega
  have h0 := hn 0 (by omega)
  have h1 := hn 1 (by omega)
  have h2 := hn 2 (by omega)
  have h3 := hn 3 (by omega)
  have h4 := hn 4 (by omega)
  simp_all [decode]

/-- An OP is one of the five operations or reserved. -/
theorem op_cases (o : BitVec 4) : o = 0 ∨ o = 1 ∨ o = 2 ∨ o = 3 ∨ o = 4 ∨ 5 ≤ o.toNat := by
  revert o; decide

end Sys2Proof
end

