-- ==== Sys2Proof/Laws/State.lean ====
section
/-! SUPPORT. The small lemmas of the state: the cells of an Lfsr, and one lemma per field per named update. -/

namespace Sys2Proof.Machine

theorem Lfsr.ext_get {l m : Lfsr} (h : ∀ i : Fin 16, l.get i = m.get i) : l = m := by
  cases l; cases m
  have h0 := h 0; have h1 := h 1; have h2 := h 2; have h3 := h 3
  have h4 := h 4; have h5 := h 5; have h6 := h 6; have h7 := h 7
  have h8 := h 8; have h9 := h 9; have h10 := h 10; have h11 := h 11
  have h12 := h 12; have h13 := h 13; have h14 := h 14; have h15 := h 15
  simp only [Lfsr.get] at *
  simp_all

@[simp] theorem Lfsr.get_ofFn (f : Fin 16 → Cell) (i : Fin 16) : (Lfsr.ofFn f).get i = f i := by
  fin_cases i <;> rfl

/-- A property of all sixteen cells, cell by cell. -/
theorem forall_cells {p : Cell → Prop} (l : Lfsr) :
    (∀ i : Fin 16, p (l.get i)) ↔
      p l.s0 ∧ p l.s1 ∧ p l.s2 ∧ p l.s3 ∧ p l.s4 ∧ p l.s5 ∧ p l.s6 ∧ p l.s7 ∧
      p l.s8 ∧ p l.s9 ∧ p l.s10 ∧ p l.s11 ∧ p l.s12 ∧ p l.s13 ∧ p l.s14 ∧ p l.s15 := by
  constructor
  · intro h
    exact ⟨h 0, h 1, h 2, h 3, h 4, h 5, h 6, h 7, h 8, h 9, h 10, h 11, h 12, h 13, h 14, h 15⟩
  · rintro ⟨h0, h1, h2, h3, h4, h5, h6, h7, h8, h9, h10, h11, h12, h13, h14, h15⟩ i
    fin_cases i <;> assumption

@[simp] theorem cmdFault_lfsr (c : ECode) (s : State) : (cmdFault c s).lfsr = s.lfsr := rfl

@[simp] theorem cmdFault_r1 (c : ECode) (s : State) : (cmdFault c s).r1 = s.r1 := rfl

@[simp] theorem cmdFault_r2 (c : ECode) (s : State) : (cmdFault c s).r2 = s.r2 := rfl

@[simp] theorem cmdFault_phase (c : ECode) (s : State) : (cmdFault c s).phase = s.phase := rfl

@[simp] theorem cmdFault_rnd (c : ECode) (s : State) : (cmdFault c s).rnd = s.rnd := rfl

@[simp] theorem cmdFault_err (c : ECode) (s : State) : (cmdFault c s).err = true := rfl

@[simp] theorem cmdFault_ecode (c : ECode) (s : State) : (cmdFault c s).ecode = if s.err then s.ecode else c := rfl

@[simp] theorem cmdFault_zreg (c : ECode) (s : State) : (cmdFault c s).zreg = s.zreg := rfl

@[simp] theorem cmdFault_zv (c : ECode) (s : State) : (cmdFault c s).zv = s.zv := rfl

@[simp] theorem cmdFault_inputs (c : ECode) (s : State) : (cmdFault c s).inputs = s.inputs := rfl

@[simp] theorem resetCore_lfsr (s : State) : (resetCore s).lfsr = State.reset.lfsr := rfl

@[simp] theorem resetCore_r1 (s : State) : (resetCore s).r1 = 0 := rfl

@[simp] theorem resetCore_r2 (s : State) : (resetCore s).r2 = 0 := rfl

@[simp] theorem resetCore_phase (s : State) : (resetCore s).phase = .idle := rfl

@[simp] theorem resetCore_rnd (s : State) : (resetCore s).rnd = 0 := rfl

@[simp] theorem resetCore_err (s : State) : (resetCore s).err = false := rfl

@[simp] theorem resetCore_ecode (s : State) : (resetCore s).ecode = .noFault := rfl

@[simp] theorem resetCore_zreg (s : State) : (resetCore s).zreg = 0 := rfl

@[simp] theorem resetCore_zv (s : State) : (resetCore s).zv = false := rfl

@[simp] theorem resetCore_inputs (s : State) : (resetCore s).inputs = s.inputs := rfl

@[simp] theorem present_lfsr (b : HostInput) (s : State) : (present b s).lfsr = s.lfsr := rfl

@[simp] theorem present_r1 (b : HostInput) (s : State) : (present b s).r1 = s.r1 := rfl

@[simp] theorem present_r2 (b : HostInput) (s : State) : (present b s).r2 = s.r2 := rfl

@[simp] theorem present_phase (b : HostInput) (s : State) : (present b s).phase = s.phase := rfl

@[simp] theorem present_rnd (b : HostInput) (s : State) : (present b s).rnd = s.rnd := rfl

@[simp] theorem present_err (b : HostInput) (s : State) : (present b s).err = s.err := rfl

@[simp] theorem present_ecode (b : HostInput) (s : State) : (present b s).ecode = s.ecode := rfl

@[simp] theorem present_zreg (b : HostInput) (s : State) : (present b s).zreg = s.zreg := rfl

@[simp] theorem present_zv (b : HostInput) (s : State) : (present b s).zv = s.zv := rfl

@[simp] theorem present_inputs (b : HostInput) (s : State) : (present b s).inputs = b :: s.inputs := rfl

@[simp] theorem presentAll_lfsr (bs : List HostInput) (s : State) : (presentAll bs s).lfsr = s.lfsr := rfl

@[simp] theorem presentAll_r1 (bs : List HostInput) (s : State) : (presentAll bs s).r1 = s.r1 := rfl

@[simp] theorem presentAll_r2 (bs : List HostInput) (s : State) : (presentAll bs s).r2 = s.r2 := rfl

@[simp] theorem presentAll_phase (bs : List HostInput) (s : State) : (presentAll bs s).phase = s.phase := rfl

@[simp] theorem presentAll_rnd (bs : List HostInput) (s : State) : (presentAll bs s).rnd = s.rnd := rfl

@[simp] theorem presentAll_err (bs : List HostInput) (s : State) : (presentAll bs s).err = s.err := rfl

@[simp] theorem presentAll_ecode (bs : List HostInput) (s : State) : (presentAll bs s).ecode = s.ecode := rfl

@[simp] theorem presentAll_zreg (bs : List HostInput) (s : State) : (presentAll bs s).zreg = s.zreg := rfl

@[simp] theorem presentAll_zv (bs : List HostInput) (s : State) : (presentAll bs s).zv = s.zv := rfl

@[simp] theorem presentAll_inputs (bs : List HostInput) (s : State) : (presentAll bs s).inputs = bs ++ s.inputs := rfl

@[simp] theorem workUpdate_lfsr (s : State) : (workUpdate s).lfsr = lfsrWork s.lfsr := rfl

@[simp] theorem workUpdate_r1 (s : State) : (workUpdate s).r1 = (fOf s).r1 := rfl

@[simp] theorem workUpdate_r2 (s : State) : (workUpdate s).r2 = (fOf s).r2 := rfl

@[simp] theorem workUpdate_phase (s : State) : (workUpdate s).phase = s.phase := rfl

@[simp] theorem workUpdate_rnd (s : State) : (workUpdate s).rnd = s.rnd := rfl

@[simp] theorem workUpdate_err (s : State) : (workUpdate s).err = s.err := rfl

@[simp] theorem workUpdate_ecode (s : State) : (workUpdate s).ecode = s.ecode := rfl

@[simp] theorem workUpdate_zreg (s : State) : (workUpdate s).zreg = s.zreg := rfl

@[simp] theorem workUpdate_zv (s : State) : (workUpdate s).zv = s.zv := rfl

@[simp] theorem workUpdate_inputs (s : State) : (workUpdate s).inputs = s.inputs := rfl

@[simp] theorem initUpdate_lfsr (s : State) : (initUpdate s).lfsr = lfsrInit s.lfsr ((fOf s).w.extractLsb' 1 31) := rfl

@[simp] theorem initUpdate_r1 (s : State) : (initUpdate s).r1 = (fOf s).r1 := rfl

@[simp] theorem initUpdate_r2 (s : State) : (initUpdate s).r2 = (fOf s).r2 := rfl

@[simp] theorem initUpdate_phase (s : State) : (initUpdate s).phase = s.phase := rfl

@[simp] theorem initUpdate_rnd (s : State) : (initUpdate s).rnd = s.rnd := rfl

@[simp] theorem initUpdate_err (s : State) : (initUpdate s).err = s.err := rfl

@[simp] theorem initUpdate_ecode (s : State) : (initUpdate s).ecode = s.ecode := rfl

@[simp] theorem initUpdate_zreg (s : State) : (initUpdate s).zreg = s.zreg := rfl

@[simp] theorem initUpdate_zv (s : State) : (initUpdate s).zv = s.zv := rfl

@[simp] theorem initUpdate_inputs (s : State) : (initUpdate s).inputs = s.inputs := rfl

@[simp] theorem holdState_eq (s : State) : holdState s = s := rfl

@[simp] theorem takeInput_present (b : HostInput) (s : State) : takeInput (present b s) = some (b, s) := rfl

theorem takeInput_nil {s : State} (h : s.inputs = []) : takeInput s = none := by simp [takeInput, h]

theorem takeInput_cons {s : State} {b : HostInput} {rest : List HostInput} (h : s.inputs = b :: rest) :
    takeInput s = some (b, { s with inputs := rest }) := by simp [takeInput, h]

@[simp] theorem presentAll_nil (s : State) : presentAll [] s = s := rfl

theorem presentAll_cons (b : HostInput) (bs : List HostInput) (s : State) :
    presentAll (b :: bs) s = present b (presentAll bs s) := rfl

theorem presentAll_append (bs cs : List HostInput) (s : State) :
    presentAll (bs ++ cs) s = presentAll bs (presentAll cs s) := by
  simp [presentAll, List.append_assoc]

end Sys2Proof.Machine
end

