-- ==== Sys2Proof/Laws/Step.lean ====
section
/-! SUPPORT. What a step can do, said once: the cases of the commands, of exec and of step, and how a run unfolds. -/

namespace Sys2Proof.Machine

theorem initrLegal_iff (s : State) : initrLegal s = true ↔ s.phase = .init ∧ s.rnd.val < 48 := by
  simp [initrLegal]

theorem initfLegal_iff (s : State) : initfLegal s = true ↔ s.phase = .init ∧ s.rnd = 48 := by
  simp [initfLegal, Fin.ext_iff]

theorem genLegal_iff (s : State) : genLegal s = true ↔ s.phase = .ready := by
  simp [genLegal]

/-- Below 48 the round counter goes up by one, without wrapping. -/
theorem nextRnd_val {r : Fin 49} (h : r.val < 48) : (nextRnd r).val = r.val + 1 := by
  rw [nextRnd, Fin.val_add]
  have h1 : ((1 : Fin 49) : Nat) = 1 := rfl
  omega

theorem execInitr_of_legal {s : State} (h : initrLegal s = true) :
    exec .initr s = .next { initUpdate s with rnd := nextRnd s.rnd } := by simp [exec, execInitr, h]

theorem execInitr_of_illegal {s : State} (h : ¬ initrLegal s = true) :
    exec .initr s = .next (cmdFault .initrPhase s) := by simp [exec, execInitr, h]

theorem execInitf_of_legal {s : State} (h : initfLegal s = true) :
    exec .initf s = .next { workUpdate s with phase := .ready } := by simp [exec, execInitf, h]

theorem execInitf_of_illegal {s : State} (h : ¬ initfLegal s = true) :
    exec .initf s = .next (cmdFault .initfPhase s) := by simp [exec, execInitf, h]

theorem execGen_of_legal {s : State} (h : genLegal s = true) :
    exec .gen s = .next { workUpdate s with zreg := workWord s, zv := true } := by simp [exec, execGen, h]

theorem execGen_of_illegal {s : State} (h : ¬ genLegal s = true) :
    exec .gen s = .next (cmdFault .genPhase s) := by simp [exec, execGen, h]

/-- The state a command leaves: everything exec can do, guards included. -/
inductive ExecCase : Instr → State → State → Prop where
  | nop {s : State} : ExecCase .nop s s
  | load (m : Mode) (k : KeyBus) (iv : IvBus) {s : State} :
      ExecCase (.load m k iv) s
        { s with lfsr := loadCells m k iv, r1 := 0, r2 := 0, phase := .init, rnd := 0, zreg := 0, zv := false }
  | initr {s : State} (hp : s.phase = .init) (hr : s.rnd.val < 48) :
      ExecCase .initr s { initUpdate s with rnd := nextRnd s.rnd }
  | initf {s : State} (hp : s.phase = .init) (hr : s.rnd = 48) :
      ExecCase .initf s { workUpdate s with phase := .ready }
  | gen {s : State} (hp : s.phase = .ready) :
      ExecCase .gen s { workUpdate s with zreg := workWord s, zv := true }
  | initrFault {s : State} (h : ¬ (s.phase = .init ∧ s.rnd.val < 48)) : ExecCase .initr s (cmdFault .initrPhase s)
  | initfFault {s : State} (h : ¬ (s.phase = .init ∧ s.rnd = 48)) : ExecCase .initf s (cmdFault .initfPhase s)
  | genFault {s : State} (h : s.phase ≠ .ready) : ExecCase .gen s (cmdFault .genPhase s)

/-- exec answers a next state, and it is the one of exactly these cases. -/
theorem exec_cases (i : Instr) (s : State) : ∃ t, exec i s = .next t ∧ ExecCase i s t := by
  cases i with
  | nop => exact ⟨s, rfl, .nop⟩
  | load m k iv => exact ⟨_, rfl, .load m k iv⟩
  | initr =>
    by_cases h : initrLegal s = true
    · have h' := (initrLegal_iff s).1 h
      exact ⟨_, execInitr_of_legal h, .initr h'.1 h'.2⟩
    · exact ⟨_, execInitr_of_illegal h, .initrFault fun h' => h ((initrLegal_iff s).2 h')⟩
  | initf =>
    by_cases h : initfLegal s = true
    · have h' := (initfLegal_iff s).1 h
      exact ⟨_, execInitf_of_legal h, .initf h'.1 h'.2⟩
    · exact ⟨_, execInitf_of_illegal h, .initfFault fun h' => h ((initfLegal_iff s).2 h')⟩
  | gen =>
    by_cases h : genLegal s = true
    · exact ⟨_, execGen_of_legal h, .gen ((genLegal_iff s).1 h)⟩
    · exact ⟨_, execGen_of_illegal h, .genFault fun h' => h ((genLegal_iff s).2 h')⟩

/-- The case of a next state that is already at hand. -/
theorem exec_next_case {i : Instr} {s t : State} (h : exec i s = .next t) : ExecCase i s t := by
  obtain ⟨u, hu, hc⟩ := exec_cases i s
  rw [hu] at h
  cases h
  exact hc

/-- A command neither reads nor writes what the host will present. -/
theorem exec_with_inputs {i : Instr} {s t : State} (h : exec i s = .next t) (l : List HostInput) :
    exec i { s with inputs := l } = .next { t with inputs := l } := by
  cases exec_next_case h with
  | nop => rfl
  | load m k iv => rfl
  | initr hp hr =>
    exact execInitr_of_legal (s := { s with inputs := l }) ((initrLegal_iff _).2 ⟨hp, hr⟩)
  | initf hp hr =>
    exact execInitf_of_legal (s := { s with inputs := l }) ((initfLegal_iff _).2 ⟨hp, hr⟩)
  | gen hp =>
    exact execGen_of_legal (s := { s with inputs := l }) ((genLegal_iff _).2 hp)
  | initrFault hn =>
    exact execInitr_of_illegal (s := { s with inputs := l }) fun h' => hn ((initrLegal_iff _).1 h')
  | initfFault hn =>
    exact execInitf_of_illegal (s := { s with inputs := l }) fun h' => hn ((initfLegal_iff _).1 h')
  | genFault hn =>
    exact execGen_of_illegal (s := { s with inputs := l }) fun h' => hn ((genLegal_iff _).1 h')

/-- A command leaves what the host will present. -/
theorem exec_inputs {i : Instr} {s t : State} (h : exec i s = .next t) : t.inputs = s.inputs := by
  cases exec_next_case h <;> rfl

theorem step_of_no_input {s : State} (h : s.inputs = []) : step s = .next s := by
  simp [step, takeInput_nil h]

theorem step_of_reset {s : State} {b : HostInput} {rest : List HostInput} (h : s.inputs = b :: rest)
    (hr : b.rst = true) : step s = .next { State.reset with inputs := rest } := by
  simp [step, takeInput_cons h, hr, resetCore]

theorem step_of_cmd {s : State} {b : HostInput} {rest : List HostInput} {i : Instr} (h : s.inputs = b :: rest)
    (hr : b.rst = false) (hd : decode b = .cmd i) : step s = exec i { s with inputs := rest } := by
  simp [step, takeInput_cons h, hr, hd]

theorem step_of_reserved {s : State} {b : HostInput} {rest : List HostInput} {op : BitVec 4}
    (h : s.inputs = b :: rest) (hr : b.rst = false) (hd : decode b = .reserved op) :
    step s = .next (cmdFault .reservedOp { s with inputs := rest }) := by
  simp [step, takeInput_cons h, hr, hd, execReserved]

/-- A presented input is taken by the very next step. -/
theorem step_present_cmd {b : HostInput} {i : Instr} (s : State) (hr : b.rst = false) (hd : decode b = .cmd i) :
    step (present b s) = exec i s := by
  simp [step, hr, hd]

/-- What one step does: nothing presented, a reset, a command, or a reserved word. -/
theorem step_cases (s : State) :
    (s.inputs = [] ∧ step s = .next s) ∨
    (∃ b rest, s.inputs = b :: rest ∧ b.rst = true ∧ step s = .next { State.reset with inputs := rest }) ∨
    (∃ b rest i t, s.inputs = b :: rest ∧ b.rst = false ∧ decode b = .cmd i ∧
      step s = .next t ∧ ExecCase i { s with inputs := rest } t) ∨
    (∃ b rest op, s.inputs = b :: rest ∧ b.rst = false ∧ decode b = .reserved op ∧
      step s = .next (cmdFault .reservedOp { s with inputs := rest })) := by
  cases h : s.inputs with
  | nil => exact .inl ⟨rfl, step_of_no_input h⟩
  | cons b rest =>
    cases hr : b.rst with
    | true => exact .inr (.inl ⟨b, rest, rfl, hr, step_of_reset h hr⟩)
    | false =>
      cases hd : decode b with
      | cmd i =>
        obtain ⟨t, ht, hc⟩ := exec_cases i { s with inputs := rest }
        exact .inr (.inr (.inl ⟨b, rest, i, t, rfl, hr, hd, (step_of_cmd h hr hd).trans ht, hc⟩))
      | reserved op => exact .inr (.inr (.inr ⟨b, rest, op, rfl, hr, hd, step_of_reserved h hr hd⟩))

/-- No steps leave the state as it is. -/
theorem run_zero (s : State) : Host.Core.run Sys2Proof.core 0 s = .next s := rfl

/-- A run begins with one step. -/
theorem run_succ {s t : State} (n : Nat) (h : step s = .next t) :
    Host.Core.run Sys2Proof.core (n + 1) s = Host.Core.run Sys2Proof.core n t := by
  have h' : Sys2Proof.core.step s = .next t := h
  simp only [Host.Core.run, h']

end Sys2Proof.Machine
end

