-- ==== Sys2Proof/Laws/HostProcedures.lean ====
section
/-! SUPPORT. The laws of the host procedures' one access to the core, `GEN; z = Z`. -/

namespace Sys2Proof.Machine

/-- The state a successful GEN leaves. -/
def afterGen (s : State) : State := { workUpdate s with zreg := workWord s, zv := true }

/-- `GEN; z = Z` in READY: the word of the working step, and the core after it. -/
theorem hostGen_of_ready {s : State} (h : s.phase = .ready) : hostGen s = .ok (workWord s, afterGen s) := by
  have hs : step (present (encode .gen) s) = .next (afterGen s) := by
    rw [step_present_cmd (i := .gen) s rfl (by decide)]
    exact execGen_of_legal ((genLegal_iff s).2 h)
  simp only [hostGen, h, if_true, hs]
  rfl

theorem hostGen_of_not_ready {s : State} (h : s.phase ≠ .ready) : hostGen s = .error .hostCoreNotReady := by
  simp [hostGen, h]

@[simp] theorem afterGen_phase (s : State) : (afterGen s).phase = s.phase := rfl

/-- The words of n GENs in READY. -/
def genWords : Nat → State → List Word
  | 0, _ => []
  | n + 1, s => workWord s :: genWords n (afterGen s)

/-- The core after n GENs in READY. -/
def afterGens : Nat → State → State
  | 0, s => s
  | n + 1, s => afterGens n (afterGen s)

theorem genWords_length (n : Nat) (s : State) : (genWords n s).length = n := by
  induction n generalizing s with
  | zero => rfl
  | succ n ih => simp [genWords, ih]

theorem afterGens_phase (n : Nat) (s : State) : (afterGens n s).phase = s.phase := by
  induction n generalizing s with
  | zero => rfl
  | succ n ih => simp [afterGens, ih]

theorem hostGens_of_ready (n : Nat) {s : State} (h : s.phase = .ready) :
    hostGens n s = .ok (genWords n s, afterGens n s) := by
  induction n generalizing s with
  | zero => rfl
  | succ n ih =>
    have h' : (afterGen s).phase = .ready := h
    simp only [hostGens, hostGen_of_ready h, bind, Except.bind, ih h', genWords, afterGens]

/-- Presenting n GEN commands and stepping n times is n GENs. -/
theorem run_gennSeq (n : Nat) {s : State} (h : s.phase = .ready) :
    Host.Core.run Sys2Proof.core n (presentAll (gennSeq n) s) = .next (afterGens n s) := by
  induction n generalizing s with
  | zero => rfl
  | succ n ih =>
    have hs := step_present_cmd (b := encode .gen) (i := .gen) (presentAll (gennSeq n) s) rfl (by decide)
    rw [execGen_of_legal ((genLegal_iff (presentAll (gennSeq n) s)).2 h)] at hs
    rw [gennSeq, List.replicate_succ, presentAll_cons]
    exact (run_succ n hs).trans (ih (s := afterGen s) h)

/-- Word j of the keystream is what Z shows after GEN number j + 1. -/
theorem genWords_getElem? (n : Nat) (s : State) (j : Nat) (h : j < n) :
    (genWords n s)[j]? = some (zPort (afterGens (j + 1) s)) := by
  induction n generalizing s j with
  | zero => omega
  | succ n ih =>
    cases j with
    | zero => rfl
    | succ j => exact ih (afterGen s) j (by omega)

/-- In READY the words a host reads are the ones the core shows. -/
theorem keystreamWords_of_ready (n : Nat) {s : State} (h : s.phase = .ready) :
    keystreamWords n s (genWords n s) (afterGens n s) :=
  ⟨run_gennSeq n h, genWords_length n s, fun j hj => ⟨_, run_gennSeq (j + 1) h, genWords_getElem? n s j hj⟩⟩

end Sys2Proof.Machine
end

