-- ==== Sys2Proof/Laws/Lfsr.lean ====
section
/-! SUPPORT. The laws of the LFSR engine. -/

namespace Sys2Proof.Machine

/-- What SHIFT writes is never 0. -/
theorem nonzeroCell_ne_zero (y : Cell) : nonzeroCell y ≠ 0 := by
  unfold nonzeroCell
  split
  · decide
  · assumption

/-- The replacement of 0 does nothing to another value. -/
theorem nonzeroCell_of_ne_zero {y : Cell} (h : y ≠ 0) : nonzeroCell y = y := if_neg h

/-- SHIFT, cell by cell. -/
theorem lfsrShift_get (l : Lfsr) (y : Cell) (i : Fin 16) :
    (lfsrShift l y).get i = if h : i.val < 15 then l.get ⟨i.val + 1, by omega⟩ else nonzeroCell y := by
  fin_cases i <;> rfl

/-- SHIFT keeps every cell nonzero. -/
theorem lfsrShift_cellsNonzero {l : Lfsr} (h : cellsNonzero l) (y : Cell) : cellsNonzero (lfsrShift l y) := by
  intro i
  rw [lfsrShift_get]
  split
  · exact h _
  · exact nonzeroCell_ne_zero y

theorem lfsrWork_cellsNonzero {l : Lfsr} (h : cellsNonzero l) : cellsNonzero (lfsrWork l) :=
  lfsrShift_cellsNonzero h _

theorem lfsrInit_cellsNonzero {l : Lfsr} (h : cellsNonzero l) (u : Cell) : cellsNonzero (lfsrInit l u) :=
  lfsrShift_cellsNonzero h _

/-- The feedback is 0 only when its five cells are. -/
theorem feedback_eq_zero {l : Lfsr} :
    feedback l = 0 ↔ l.s0 = 0 ∧ l.s4 = 0 ∧ l.s10 = 0 ∧ l.s13 = 0 ∧ l.s15 = 0 := by
  simp only [feedback, addMod31_eq_zero, mul31_eq_zero (show 8 < 31 by omega), mul31_eq_zero (show 15 < 31 by omega),
    mul31_eq_zero (show 17 < 31 by omega), mul31_eq_zero (show 20 < 31 by omega), mul31_eq_zero (show 21 < 31 by omega)]
  tauto

end Sys2Proof.Machine
end

