-- ==== Sys2Proof/Laws/Operands.lean ====
section
/-! SUPPORT. The laws of fields laid side by side, and of LOAD's operands. -/

namespace Sys2Proof.Machine

/-- Concatenation as a number: the left part stands above the right one. -/
theorem toNat_concat {v w : Nat} (x : BitVec v) (y : BitVec w) : (x ++ y).toNat = x.toNat * 2 ^ w + y.toNat := by
  rw [BitVec.toNat_append, Nat.shiftLeft_eq, Nat.mul_comm, ← Nat.two_pow_add_eq_or_of_lt y.isLt]

/-- A packed cell as a number: its four fields do not overlap (R184). -/
theorem packCell_toNat (b1 : Byte) (d : DConst) (b3 b4 : Byte) :
    (packCell b1 d b3 b4).toNat = b1.toNat * 2 ^ 23 + d.toNat * 2 ^ 16 + b3.toNat * 2 ^ 8 + b4.toNat := by
  simp only [packCell, toNat_concat]
  ring

/-- The four fields of a packed cell are the ones it was packed from (R184). -/
theorem packCell_inj {b1 b3 b4 b1' b3' b4' : Byte} {d d' : DConst}
    (h : packCell b1 d b3 b4 = packCell b1' d' b3' b4') : b1 = b1' ∧ d = d' ∧ b3 = b3' ∧ b4 = b4' := by
  have hn := congrArg BitVec.toNat h
  rw [packCell_toNat, packCell_toNat] at hn
  simp only [← BitVec.toNat_inj]
  have := b1.isLt; have := b1'.isLt; have := d.isLt; have := d'.isLt
  have := b3.isLt; have := b3'.isLt; have := b4.isLt; have := b4'.isLt
  omega

/-- Every D constant is in [0x01, 0x7B] (R183). -/
theorem drom_bounds (m : Mode) (i : Fin 16) : 1 ≤ (drom m i).toNat ∧ (drom m i).toNat ≤ 0x7B := by
  cases m <;> revert i <;> decide

/-- LOAD, cell by cell. -/
@[simp] theorem loadCells_get (m : Mode) (k : KeyBus) (iv : IvBus) (i : Fin 16) :
    (loadCells m k iv).get i = loadCell m k iv i := Lfsr.get_ofFn _ i

/-- A loaded cell is nonzero, since its D constant is (R185). -/
theorem loadCell_ne_zero (m : Mode) (k : KeyBus) (iv : IvBus) (i : Fin 16) : loadCell m k iv i ≠ 0 := by
  intro h
  have hn := congrArg BitVec.toNat h
  rw [loadCell, packCell_toNat] at hn
  have hd := (drom_bounds m i).1
  have h0 : (0 : Cell).toNat = 0 := rfl
  omega

theorem loadCells_cellsNonzero (m : Mode) (k : KeyBus) (iv : IvBus) : cellsNonzero (loadCells m k iv) := by
  intro i
  rw [loadCells_get]
  exact loadCell_ne_zero m k iv i

end Sys2Proof.Machine
end

