-- ==== Sys2Proof/Laws/PerInstr.lean ====
section
/-! SUPPORT. Statements about every instruction as a term of the syntax, one lemma per constructor. -/

namespace Sys2Proof.Laws.Encoding

open Sys2Proof

theorem opField_append (m : BitVec 2) (o : BitVec 4) : opField (m ++ o) = o := by
  revert m o; decide

theorem modeField_append (m : BitVec 2) (o : BitVec 4) : modeField (m ++ o) = m := by
  revert m o; decide

/-- What an instruction's encoding holds: it is well formed, its OP and MODE fields are the table's, and the host presents
its word with RST not asserted (R82-R84). -/
def Statement (i : Instr) : Prop :=
  i.wf = true ∧ opField (encodeCmd i) = opBits i ∧ modeField (encodeCmd i) = modeBitsOf i ∧
    (encode i).cmd = encodeCmd i ∧ (encode i).rst = false

theorem nop : Statement .nop := by unfold Statement; decide

theorem load (m : Mode) (k : KeyBus) (iv : IvBus) : Statement (.load m k iv) :=
  ⟨rfl, opField_append _ _, modeField_append _ _, rfl, rfl⟩

theorem initr : Statement .initr := by unfold Statement; decide

theorem initf : Statement .initf := by unfold Statement; decide

theorem gen : Statement .gen := by unfold Statement; decide

end Sys2Proof.Laws.Encoding
end

