-- ==== Sys2Proof/Machine/Assembler.lean ====
section
/-! DEFINITION. The assembler of spec/30_encoding.md R89 and R90: a source line is read, and expanded into what the host
presents. What R89 and R90 do not state (spacing, letter case, lines without a command, prefixes, the base of GENN's
count) is the model's choice, in log entry 14. -/

namespace Sys2Proof.Machine

/-- The value of a string of digits, most significant first. -/
def digitsValue (base : Nat) (ds : List Nat) : Nat := ds.foldl (fun acc d => acc * base + d) 0

/-- The bus value of a string of hexadecimal digits, K[0] or IV[0] first (R89). -/
def busValue (w : Nat) (ds : List (Fin 16)) : BitVec w := BitVec.ofNat w (digitsValue 16 (ds.map Fin.val))

/-- What the host presents for a line; `key` and `ivb` are what it holds on the buses for the lines that give none
(R268: no command but LOAD reads them). An ill-formed line has no expansion. -/
def expandLine (key : KeyBus) (ivb : IvBus) (a : AsmLine) : Option (List HostInput) :=
  if a.wf then
    match a with
    | .blank => some []
    | .nop => some [{ encode .nop with key := key, ivb := ivb }]
    | .load m k iv => some [encode (.load m (busValue 256 k) (busValue 128 iv))]
    | .initr => some [{ encode .initr with key := key, ivb := ivb }]
    | .initf => some [{ encode .initf with key := key, ivb := ivb }]
    | .gen => some [{ encode .gen with key := key, ivb := ivb }]
    | .raw w => some [{ rst := false, cmd := BitVec.ofNat 6 w, key := key, ivb := ivb }]
    | .init => some initSeq
    | .new m k iv => some (newSeq m (busValue 256 k) (busValue 128 iv))
    | .genn n => some (gennSeq n)
  else none

/-- A white space character. -/
def isBlankChar (c : Char) : Bool := c == ' ' || c == '\t' || c == '\r'

/-- The word read so far, if there is one. -/
def flushWord (cur : List Char) : List (List Char) := if cur.isEmpty then [] else [cur]

/-- The words of a line; a comma is a word of its own. -/
def lineWords : List Char → List Char → List (List Char)
  | [], cur => flushWord cur
  | c :: cs, cur =>
    if isBlankChar c then flushWord cur ++ lineWords cs []
    else if c == ',' then flushWord cur ++ [','] :: lineWords cs []
    else lineWords cs (cur ++ [c])

/-- The value of a hexadecimal digit. -/
def hexDigit (c : Char) : Option (Fin 16) :=
  ([('0', 0), ('1', 1), ('2', 2), ('3', 3), ('4', 4), ('5', 5), ('6', 6), ('7', 7), ('8', 8), ('9', 9),
    ('a', 10), ('b', 11), ('c', 12), ('d', 13), ('e', 14), ('f', 15)] : List (Char × Fin 16)).lookup c.toLower

/-- The value of a decimal digit. -/
def decDigit (c : Char) : Option Nat :=
  match hexDigit c with
  | some d => if d.val < 10 then some d.val else none
  | none => none

/-- `<mode>` (R84, R89). -/
def parseMode (w : List Char) : Option Mode :=
  if w = ['E', 'N', 'C'] then some .encrypt
  else if w = ['M', 'A', 'C', '3', '2'] then some .mac32
  else if w = ['M', 'A', 'C', '6', '4'] then some .mac64
  else if w = ['M', 'A', 'C', '1', '2', '8'] then some .mac128
  else none

/-- `<mode>, <key>, <iv>` (R89). -/
def parseOperands (f : Mode → List (Fin 16) → List (Fin 16) → AsmLine) (args : List (List Char)) : Option AsmLine :=
  match args with
  | [m, [','], k, [','], v] => do
    some (f (← parseMode m) (← k.mapM hexDigit) (← v.mapM hexDigit))
  | _ => none

/-- `0x<hex>` of the directive `.cmd` (R89). DESIGN CHOICE (log entry 14): the prefix 0X and any number of leading zero
digits are accepted as well; the value must fit in 6 bits. -/
def parseRaw (args : List (List Char)) : Option AsmLine :=
  match args with
  | ['0' :: x :: d :: ds] =>
    if x == 'x' || x == 'X' then do
      some (.raw (digitsValue 16 ((← (d :: ds).mapM hexDigit).map Fin.val)))
    else none
  | _ => none

/-- `<n>` of GENN (R90). DESIGN CHOICE (log entry 14): decimal, any number of leading zero digits accepted. -/
def parseCount (args : List (List Char)) : Option AsmLine :=
  match args with
  | [d :: ds] => do some (.genn (digitsValue 10 (← (d :: ds).mapM decDigit)))
  | _ => none

/-- A line that takes no operand. -/
def parsePlain (a : AsmLine) (args : List (List Char)) : Option AsmLine := if args.isEmpty then some a else none

/-- One line of source: `;` begins a comment, mnemonics are case-insensitive, and the line must be well formed (R89).
DESIGN CHOICE (log entry 14): a line with no word before the comment is accepted and expands to no input. -/
def parseLine (line : List Char) : Option AsmLine := do
  let a ← match lineWords (line.takeWhile (· != ';')) [] with
    | [] => some .blank
    | w :: args =>
      let m := w.map Char.toUpper
      if m = ['N', 'O', 'P'] then parsePlain .nop args
      else if m = ['L', 'O', 'A', 'D'] then parseOperands .load args
      else if m = ['I', 'N', 'I', 'T', 'R'] then parsePlain .initr args
      else if m = ['I', 'N', 'I', 'T', 'F'] then parsePlain .initf args
      else if m = ['G', 'E', 'N'] then parsePlain .gen args
      else if m = ['.', 'C', 'M', 'D'] then parseRaw args
      else if m = ['I', 'N', 'I', 'T'] then parsePlain .init args
      else if m = ['N', 'E', 'W'] then parseOperands .new args
      else if m = ['G', 'E', 'N', 'N'] then parseCount args
      else none
  if a.wf then some a else none

/-- A whole source text, line by line, into what the host presents. -/
def assemble (key : KeyBus) (ivb : IvBus) : List (List Char) → Option (List HostInput)
  | [] => some []
  | line :: rest => do
    let here ← expandLine key ivb (← parseLine line)
    let there ← assemble key ivb rest
    some (here ++ there)

end Sys2Proof.Machine
end

