-- ==== Sys2Proof/Tests/Slice0.lean ====
section
/-! SUPPORT. Small tests: well-formedness, decoding, the spec's worked values, one step per command, and for every
statement with hypotheses a state and operands that meet them. Expected values are those of spec/95_test_vectors.md and of
the rules named. -/

namespace Sys2Proof.Tests

open Sys2Proof Sys2Proof.Machine

/-! ## Well-formedness (R89) -/

theorem test_wf_refuses_short_key : AsmLine.wf (.load .encrypt (List.replicate 63 0) (List.replicate 32 0)) = false := by decide

theorem test_wf_refuses_long_iv : AsmLine.wf (.new .mac32 (List.replicate 64 0) (List.replicate 33 0)) = false := by decide

theorem test_wf_refuses_short_iv : AsmLine.wf (.load .mac64 (List.replicate 64 0) (List.replicate 31 0)) = false := by decide

theorem test_wf_refuses_long_key : AsmLine.wf (.new .encrypt (List.replicate 65 0) (List.replicate 32 0)) = false := by decide

theorem test_wf_refuses_wide_raw_word : AsmLine.wf (.raw 64) = false := by decide

theorem test_wf_accepts_load : AsmLine.wf (.load .encrypt (List.replicate 64 0) (List.replicate 32 15)) = true := by decide

/-! ## Decoding (R82-R88): words written out bit by bit, `mmoooo` -/

theorem test_decode_nop : decodeTableWord 8 0b00110000 = some .nop := by decide

theorem test_decode_load_enc : decodeTableWord 8 0b00000001 = some (.load .encrypt 0 0) := by decide

theorem test_decode_load_mac32 : decodeTableWord 8 0b00010001 = some (.load .mac32 0 0) := by decide

theorem test_decode_load_mac64 : decodeTableWord 8 0b00100001 = some (.load .mac64 0 0) := by decide

theorem test_decode_load_mac128 : decodeTableWord 8 0b00110001 = some (.load .mac128 0 0) := by decide

theorem test_decode_initr : decodeTableWord 8 0b00010010 = some .initr := by decide

theorem test_decode_initf : decodeTableWord 8 0b00100011 = some .initf := by decide

theorem test_decode_gen : decodeTableWord 8 0b00110100 = some .gen := by decide

theorem test_decode_reserved :
    decodeTableWord 8 0b00000101 = none ∧ decodeTableWord 8 0b00111111 = none ∧
      decode (tableInput 8 0b00111111) = .reserved 0xF := by decide

theorem test_encode_words :
    (encode (.load .mac128 5 7)).cmd = 0x31 ∧ (encode (.load .mac128 5 7)).key = 5 ∧
      (encode (.load .mac128 5 7)).ivb = 7 ∧ (encode .gen).cmd = 0x04 := by decide

/-! ## The datapath (95_test_vectors.md 2.1-2.8) -/

theorem test_add_mod31 :
    addMod31 0x7FFFFFFE 1 = 0x7FFFFFFF ∧ addMod31 0x7FFFFFFF 1 = 1 ∧ addMod31 0x12345678 0x6DCBA988 = 1 ∧
      addMod31 0x7FFFFFFE 0x7FFFFFFE = 0x7FFFFFFD := by decide

theorem test_mul31 : mul31 0x12345678 8 = 0x34567824 ∧ mul31 0x40000000 21 = 0x00100000 := by decide

theorem test_rot32 : rot32 0x12345678 2 = 0x48D159E0 ∧ rot32 0x80000000 30 = 0x20000000 := by decide

theorem test_add32 : add32 0xFFFFFFFF 2 = 1 ∧ add32 0x80000001 0x12345678 = 0x92345679 := by decide

theorem test_l1_l2 : l1 0x12345678 = 0xAA4E9357 ∧ l2 0xDEADBEEF = 0x50F4624E := by decide

theorem test_sbox : sbox 0x12345678 = 0xF9C05A4E ∧ sbox 0xDEADBEEF = 0xE2B8AA28 ∧ sbox 0x80808080 = 0xB1ADB1AD := by decide

/-- The cells `S[i] = 0x11111111 * (i + 1) mod 2^31` of R161. -/
def rampCells : Lfsr := Lfsr.ofFn fun i => BitVec.ofNat 31 (0x11111111 * (i.val + 1))

theorem test_bit_reorg :
    bitReorg rampCells = { x0 := 0x2222FFFF, x1 := 0xCCCC5555, x2 := 0x8888CCCC, x3 := 0x33332222 } := by decide

theorem test_f :
    fStep 0x12345678 0x9ABCDEF0 0x0F0F0F0F 0x80000000 0x80000001 =
      { w := 0x12345679, r1 := 0x4F283347, r2 := 0x48938E9A } := by decide

/-- W uses R1 and R2 from before the update (95_test_vectors.md 2.7, row 5). -/
theorem test_f_old_registers :
    fStep 0 0 0 0xCCD31746 0x3C9F37AE = { w := 0x09724EF4, r1 := 0x38EC18B9, r2 := 0xD2EE3C2D } := by decide

theorem test_feedback :
    feedback (Lfsr.ofFn fun i => BitVec.ofNat 31 (i.val + 1)) = 0x01D40101 ∧
      feedback (Lfsr.ofFn fun _ => 1) = 0x00328101 := by decide

theorem test_init_update_zero_class :
    (lfsrInit (loadCells .encrypt 0 0) 0x7FFFFFFF).s15 = 0x64640934 ∧
      (lfsrShift rampCells 0).s15 = 0x7FFFFFFF := by decide

/-! ## One step per command -/

/-- The state a command leaves. -/
def after (i : Instr) (s : State) : State :=
  match exec i s with
  | .next t => t
  | .fault f => nomatch f
  | .refused _ => s

/-- The state a step leaves. -/
def stepped (s : State) : State :=
  match step s with
  | .next t => t
  | .fault f => nomatch f
  | .refused _ => s

/-- The cells of an all-zero key and IV in mode ENC, in PHASE INIT with the given RND. -/
def initAt (r : Fin 49) : State := { State.reset with lfsr := loadCells .encrypt 0 0, phase := .init, rnd := r }

/-- The same cells in PHASE READY. -/
def readyState : State := { initAt 48 with phase := .ready }

/-- A state whose first recorded fault was cause 4. -/
def faultedState : State := { State.reset with err := true, ecode := .genPhase }

/-- The ramp key and IV of 95_test_vectors.md. -/
def rampKey : KeyBus := 0x000102030405060708090A0B0C0D0E0F101112131415161718191A1B1C1D1E1F

def rampIv : IvBus := 0xA0A1A2A3A4A5A6A7A8A9AAABACADAEAF

/-- An input with RST not asserted, KEY = IVB = 0. -/
def word (w : CmdWord) : HostInput := { rst := false, cmd := w, key := 0, ivb := 0 }

/-- An input with RST asserted. -/
def resetWith (w : CmdWord) : HostInput := { rst := true, cmd := w, key := 0, ivb := 0 }

theorem test_nop : after .nop readyState = readyState ∧ after .nop faultedState = faultedState := by decide

theorem test_load :
    let t := after (.load .mac128 rampKey rampIv) faultedState
    t.lfsr.s0 = 0x00651018 ∧ t.lfsr.s2 = 0x017A121A ∧ t.lfsr.s6 = 0x0351161E ∧ t.lfsr.s7 = 0x03C2A0A8 ∧
      t.lfsr.s14 = 0x0701A7AF ∧ t.lfsr.s15 = 0x07DC171F ∧ status t = 0x00000049 := by decide

theorem test_initr :
    let t := after .initr (initAt 0)
    t.lfsr.s15 = 0x64C00934 ∧ t.lfsr.s0 = 0x00430000 ∧ t.r1 = 0xCCD31746 ∧ t.r2 = 0x3C9F37AE ∧
      status t = 0x00000101 := by decide

theorem test_initf :
    let t := after .initf (initAt 48)
    t.lfsr.s15 = 0x64640934 ∧ t.r1 = 0xCCD31746 ∧ t.r2 = 0x3C9F37AE ∧ t.zreg = 0 ∧ status t = 0x00003002 := by decide

theorem test_gen :
    let t := after .gen readyState
    zPort t = 0x00B800C8 ∧ t.lfsr.s15 = 0x64640934 ∧ t.r1 = 0xCCD31746 ∧ status t = 0x00003006 := by decide

/-- The fault rows of 95_test_vectors.md 2.14. -/
theorem test_faults :
    status (after .gen State.reset) = 0x00000048 ∧ status (after .initr State.reset) = 0x00000028 ∧
      status (after .initf State.reset) = 0x00000038 ∧ status (after .initf (initAt 0)) = 0x00000039 ∧
      status (after .initr (initAt 48)) = 0x00003029 ∧ status (after .gen (initAt 48)) = 0x00003049 ∧
      status (after .initr readyState) = 0x0000302A ∧ status (after .initf readyState) = 0x0000303A := by decide

theorem test_reserved_word : status (stepped (present (word 0x0F) State.reset)) = 0x00000018 := by decide

theorem test_first_cause_is_kept :
    status (after .initf { initAt 0 with err := true, ecode := .genPhase }) = 0x00000049 := by decide

theorem test_reset_wins : stepped (present (resetWith 0x04) faultedState) = State.reset := by decide

theorem test_nothing_presented : stepped readyState = readyState := by decide

theorem test_fetch_word_runs : stepped (State.reset.withFetchWord 8 0x01) = after (.load .encrypt 0 0) State.reset := by decide

/-! ## Host procedures and assembler -/

/-- `GEN; z = Z` reads the word of test_gen. -/
theorem test_host_gen_reads_z : (hostGens 1 readyState).map Prod.fst = .ok [0x00B800C8] := by decide

theorem test_word_bytes : wordBytes 0x0234e932 = [0x02, 0x34, 0xe9, 0x32] := by decide

/-- 95_test_vectors.md 2.16, on the first two words of the zero key and IV in mode MAC32. -/
theorem test_slice :
    wsl [0x75AA0BB4, 0x714732F9] 31 32 = .ok [0x38, 0xA3, 0x99, 0x7C] ∧
      wsl [0x75AA0BB4, 0x714732F9] 33 32 = .error .sliceOutOfRange := by decide

/-- The hand checks of 95_test_vectors.md 2.16: the empty message, and the one-bit messages 80 and 00. -/
theorem test_mac_tags :
    macTag [0x75AA0BB4, 0x714732F9] [] 0 32 = .ok [0x04, 0xed, 0x39, 0x4d] ∧
      macTag [0x75AA0BB4, 0x714732F9, 0xF7B03CD0] [0x80] 1 32 = .ok [0xe6, 0x63, 0x5c, 0xbe] ∧
      macTag [0x75AA0BB4, 0x714732F9, 0xF7B03CD0] [0x00] 1 32 = .ok [0x97, 0x24, 0x6e, 0x47] := by decide

theorem test_mac_word_count :
    macWordCount 0 32 = 2 ∧ macWordCount 1 32 = 3 ∧ macWordCount 400 32 = 15 ∧ macWordCount 400 128 = 21 := by decide

theorem test_parse :
    parseLine ['g', 'e', 'n', ' ', ';', 'x'] = some .gen ∧
      parseLine ['.', 'c', 'm', 'd', ' ', '0', 'x', '3', '4'] = some (.raw 0x34) ∧
      parseLine ['.', 'c', 'm', 'd', ' ', '0', 'x', '4', '0'] = none ∧
      parseLine ['G', 'E', 'N', 'N', ' ', '1', '2'] = some (.genn 12) ∧
      parseLine [] = some .blank := by decide

/-- The choices of log entry 14: the prefix 0X, leading zeros, and a line of comment alone. -/
theorem test_parse_choices :
    parseLine ['.', 'C', 'M', 'D', ' ', '0', 'X', '0', '0', '3', '4'] = some (.raw 0x34) ∧
      parseLine [' ', ';', 'x'] = some .blank ∧ assemble 0 0 [[';']] = some [] := by decide

/-! ## Witnesses: for each statement with hypotheses, operands that meet all of them -/

theorem witness_DecodeOfEncodeIsTheInstruction : Instr.wf (.load .mac128 rampKey rampIv) = true := by decide

theorem witness_EachCommandWordDecodesToOneOperation :
    (word 0x01).cmd = 0x01 ∧ (word 0x11).cmd = 0x11 ∧ (word 0x21).cmd = 0x21 ∧ (word 0x31).cmd = 0x31 ∧
      decode (word 0x31) = .cmd (.load .mac128 0 0) := by decide

theorem witness_PseudoCommands_member : encode .gen ∈ newSeq .encrypt 0 0 ++ gennSeq 1 := by decide

theorem witness_StepRunsTheDecodedCommand :
    ({ State.reset with inputs := [word 0x34] }).inputs = word 0x34 :: [] ∧ (word 0x34).rst = false ∧
      decode (word 0x34) = .cmd .gen ∧ Instr.wf .gen = true := by decide

theorem witness_FetchWordRunsNext : decodeTableWord 8 0x04 = some .gen := by decide

theorem witness_NothingPresentedChangesNothing : readyState.inputs = [] := by decide

theorem witness_ResetSetsEveryRegister :
    ({ readyState with inputs := [resetWith 0x01] }).inputs = resetWith 0x01 :: [] ∧ (resetWith 0x01).rst = true := by decide

theorem witness_ResetSetsEveryRegister_clears :
    step { faultedState with inputs := [resetWith 0x00] } = .next State.reset ∧
      (faultedState.err = true ∧ State.reset.err = false) ∧
      (faultedState.ecode ≠ .noFault ∧ State.reset.ecode = .noFault) := ⟨rfl, by decide, by decide⟩

theorem witness_ResetWinsOverTheCommand :
    (resetWith 0x01).rst = true ∧ (resetWith 0x3F).rst = true ∧ [word 0x01] = word 0x01 :: [] ∧
      (word 0x01).rst = false ∧ decode (word 0x01) = .cmd (.load .encrypt 0 0) := by decide

theorem witness_LoadFillsTheCells_bounds :
    (0 : Fin 16).val ≤ 6 ∧ (6 : Fin 16).val ≤ 6 ∧ 7 ≤ (7 : Fin 16).val ∧ (7 : Fin 16).val ≤ 14 ∧
      7 ≤ (14 : Fin 16).val ∧ (14 : Fin 16).val ≤ 14 ∧ ¬ (7 : Fin 16).val ≤ 6 ∧ ¬ (15 : Fin 16).val ≤ 14 := by decide

theorem witness_KeyAndIvBytesOnTheBuses :
    (31 < 32 ∧ keyByte rampKey 31 = 0x1F) ∧ (15 < 16 ∧ ivByte rampIv 15 = 0xAF) ∧ keyByte rampKey 0 = 0x00 ∧
      ivByte rampIv 0 = 0xA0 := by decide

theorem witness_LoadDropsNoKeyOrIvBit :
    exec (.load .mac32 rampKey rampIv) State.reset = .next (after (.load .mac32 rampKey rampIv) State.reset) ∧
      exec (.load .mac32 rampKey rampIv) faultedState = .next (after (.load .mac32 rampKey rampIv) faultedState) ∧
      (after (.load .mac32 rampKey rampIv) State.reset).lfsr = (after (.load .mac32 rampKey rampIv) faultedState).lfsr :=
  ⟨rfl, rfl, rfl⟩

theorem witness_LoadStartsAFreshCipher :
    (State.reset.err = readyState.err ∧ State.reset.ecode = readyState.ecode ∧ State.reset.inputs = readyState.inputs) ∧
      exec (.load .encrypt 0 0) readyState = .next (after (.load .encrypt 0 0) readyState) := ⟨⟨rfl, rfl, rfl⟩, rfl⟩

theorem witness_InitrPerformsOneRound :
    ((initAt 0).phase = .init ∧ (initAt 0).rnd.val < 48) ∧ ((initAt 47).phase = .init ∧ (initAt 47).rnd.val < 48) ∧
      ¬ ((initAt 48).phase = .init ∧ (initAt 48).rnd.val < 48) ∧
      ¬ (readyState.phase = .init ∧ readyState.rnd.val < 48) := by decide

theorem witness_InitfPerformsTheDiscardedStep :
    ((initAt 48).phase = .init ∧ (initAt 48).rnd.val = 48) ∧
      ¬ ((initAt 47).phase = .init ∧ (initAt 47).rnd.val = 48) ∧
      ¬ (readyState.phase = .init ∧ readyState.rnd.val = 48) := by decide

theorem witness_GenEmitsOneKeystreamWord :
    readyState.phase = .ready ∧ (initAt 48).phase ≠ .ready ∧ State.reset.phase ≠ .ready := by decide

theorem witness_ReservedWordRecordsFaultOne :
    ({ State.reset with inputs := [word 0x05] }).inputs = word 0x05 :: [] ∧ (word 0x05).rst = false ∧
      5 ≤ (word 0x05).cmd.toNat % 16 ∧ 5 ≤ (word 0x3F).cmd.toNat % 16 := by decide

theorem witness_CmdFaultWritesOnlyErrAndEcode : State.reset.err = false ∧ faultedState.err = true := by decide

theorem witness_LifecycleTable :
    State.reset.phase = .idle ∧ ((initAt 0).phase = .init ∧ (initAt 0).rnd.val < 48) ∧
      ((initAt 47).phase = .init ∧ (initAt 47).rnd.val < 48) ∧ ((initAt 48).phase = .init ∧ (initAt 48).rnd.val = 48) ∧
      readyState.phase = .ready ∧ ((word 0x05).rst = false ∧ 5 ≤ (word 0x05).cmd.toNat % 16) := by decide

theorem witness_WritersOfEachRegister :
    exec .gen State.reset = .next (after .gen State.reset) ∧
      (after .gen State.reset).err ≠ State.reset.err ∧ (after .gen State.reset).ecode ≠ State.reset.ecode ∧
      exec .gen readyState = .next (after .gen readyState) ∧ (after .gen readyState).zv ≠ readyState.zv ∧
      (after .gen readyState).lfsr ≠ readyState.lfsr ∧
      exec .initf (initAt 48) = .next (after .initf (initAt 48)) ∧ (after .initf (initAt 48)).phase ≠ (initAt 48).phase ∧
      exec .initr (initAt 0) = .next (after .initr (initAt 0)) ∧ (after .initr (initAt 0)).rnd ≠ (initAt 0).rnd :=
  ⟨rfl, by decide, by decide, rfl, by decide, by decide, rfl, by decide, rfl, by decide⟩

theorem witness_ErrorIsStickyUntilReset :
    (∀ b ∈ ({ faultedState with inputs := [word 0x01] }).inputs.head?, b.rst = false) ∧
      ({ faultedState with inputs := [word 0x01] }).err = true := by decide

theorem witness_AdderLaws_unique :
    0 < (0x7FFFFFFE : Cell).toNat + (1 : Cell).toNat ∧ 1 ≤ 2147483647 ∧
      2147483647 % 2147483647 = ((0x7FFFFFFE : Cell).toNat + (1 : Cell).toNat) % 2147483647 := by decide

theorem witness_Rotator : 8 ∈ [8, 15, 17, 20, 21] ∧ 21 ∈ [8, 15, 17, 20, 21] ∧ 30 < 31 := by decide

theorem witness_LinearTransforms :
    l1 ∈ [l1, l2] ∧ l2 ∈ [l1, l2] ∧ 31 < 32 := ⟨List.mem_cons_self, List.mem_cons_of_mem _ List.mem_cons_self, by decide⟩

theorem witness_cellsNonzero : cellsNonzero (loadCells .encrypt 0 0) := by decide

theorem witness_Inv_ready : Inv (after .gen readyState) :=
  ⟨by decide, by decide, by decide, by decide, by decide, by decide, by decide⟩

theorem witness_EveryStepKeepsTheInvariant :
    Inv { State.reset with inputs := [word 0x04] } ∧
      step { State.reset with inputs := [word 0x04] } = .next (after .gen State.reset) :=
  ⟨⟨by decide, by decide, by decide, by decide, by decide, by decide, by decide⟩, rfl⟩

theorem witness_FaultHistoryNeverReachesTheCipher :
    sameCipher State.reset faultedState ∧ State.reset.err ≠ faultedState.err :=
  ⟨⟨rfl, rfl, rfl, rfl, rfl, rfl, rfl⟩, by decide⟩

theorem witness_BusesAreReadByLoadOnly :
    (word 0x04).rst = false ∧ ({ rst := false, cmd := 0x34, key := rampKey, ivb := rampIv } : HostInput).rst = false ∧
      (word 0x04).cmd.toNat % 16 = (0x34 : CmdWord).toNat % 16 ∧ (word 0x04).cmd.toNat % 16 ≠ 1 := by decide

theorem witness_AnyNumberOfGenCompletes : readyState.phase = .ready ∧ 0 < 1 := by decide

theorem witness_KeystreamIgnoresNopsAndFaults :
    readyState.phase = .ready ∧
      ∀ b ∈ [word 0x04, word 0x30, word 0x02, word 0x03, word 0x3F, word 0x34], b.rst = false ∧ b.cmd.toNat % 16 ≠ 1 := by
  decide

theorem witness_InstancesShareNothing :
    ∃ p : Config.OpenParams, ∃ i j : Fin p.nCores, i ≠ j :=
  ⟨⟨2, by decide, fun _ => 0⟩, 0, 1, by decide⟩

theorem witness_ApplyKeystreamXorsTheWords : readyState.phase = .ready ∧ ([1, 2, 3] : List Byte).length = 3 := by decide

theorem witness_WholeWordCallsConcatenate :
    readyState.phase = .ready ∧ ([1, 2, 3, 4] : List Byte).length % 4 = 0 ∧ ([] : List Byte).length % 4 = 0 := by decide

theorem witness_BrokenHostContractsAreRefused :
    48 ∉ [32, 64, 128] ∧ (32 ∈ [32, 64, 128] ∧ 8 * ([0] : List Byte).length < 9) ∧
      (128 ∈ [32, 64, 128] ∧ 8 ≤ 8 * ([0] : List Byte).length ∧ State.reset.phase ≠ .ready) := by decide

theorem witness_SliceExtractsKeystreamBits :
    (32 + 32 ≤ 32 * ([1, 2] : List Word).length) ∧ (32 * ([1, 2] : List Word).length < 33 + 32 ∧ 0 < 32) ∧
      (0 + 9 ≤ 32 * ([1] : List Word).length ∧ 8 < 9 ∧ 9 ≤ 15 ∧ 15 < 8 * ((9 + 7) / 8)) := by decide

theorem witness_MacTagBits :
    readyState.phase = .ready ∧ 64 ∈ [32, 64, 128] ∧ 8 ≤ 8 * ([0xFF] : List Byte).length ∧
      0 ≤ 8 * ([] : List Byte).length ∧ 63 < 64 := by decide

end Sys2Proof.Tests
end

/-! The statements about the state (spec/10_state.md): the invariant, which command writes which register, the sticky
error flag, the layout of STATUS, and that the fault history never reaches the cipher. -/

namespace Sys2Proof.Machine

/-! ## The invariant -/

theorem inv_reset : Inv State.reset where
  cells h := absurd rfl h
  idle_cipher _ := ⟨rfl, rfl, rfl⟩
  idle_rnd _ := rfl
  ready_rnd h := nomatch h
  zv_ready h := nomatch h
  z_zero _ := rfl
  ecode_err := ⟨fun _ => rfl, fun _ => rfl⟩

/-- The invariant is about registers only, not about what the host will present. -/
theorem Inv.with_inputs {s : State} (h : Inv s) (l : List HostInput) : Inv { s with inputs := l } :=
  { h with }

/-- Recording a fault keeps the invariant, since every cause has a code other than 0 (R231). -/
theorem Inv.after_cmdFault {s : State} (h : Inv s) {c : ECode} (hc : c ≠ .noFault) : Inv (cmdFault c s) := by
  refine { h with ecode_err := ?_ }
  cases he : s.err with
  | false => simp [he, hc]
  | true => simp [he, h.ecode_err]

/-- In INIT every cell is nonzero (R22). -/
theorem Inv.cells_of_init {s : State} (h : Inv s) (hp : s.phase = .init) : cellsNonzero s.lfsr :=
  h.cells (by simp [hp])

/-- Every command keeps the invariant. -/
theorem ExecCase.inv {i : Instr} {s t : State} (hc : ExecCase i s t) (h : Inv s) : Inv t := by
  cases hc with
  | nop => exact h
  | load m k iv =>
    exact { h with
      cells := fun _ => loadCells_cellsNonzero m k iv
      idle_cipher := nofun
      idle_rnd := nofun
      ready_rnd := nofun
      zv_ready := nofun
      z_zero := fun _ => rfl }
  | initr hp hr =>
    exact { h with
      cells := fun _ => lfsrInit_cellsNonzero (h.cells_of_init hp) _
      idle_cipher := fun hi => absurd (hp.symm.trans hi) nofun
      idle_rnd := fun hi => absurd (hp.symm.trans hi) nofun
      ready_rnd := fun hi => absurd (hp.symm.trans hi) nofun }
  | initf hp hr =>
    exact { h with
      cells := fun _ => lfsrWork_cellsNonzero (h.cells_of_init hp)
      idle_cipher := nofun
      idle_rnd := nofun
      ready_rnd := fun _ => hr
      zv_ready := fun _ => rfl }
  | gen hp =>
    exact { h with
      cells := fun hi => lfsrWork_cellsNonzero (h.cells hi)
      idle_cipher := fun hi => absurd (hp.symm.trans hi) nofun
      zv_ready := fun _ => hp
      z_zero := nofun }
  | initrFault | initfFault | genFault => exact h.after_cmdFault nofun

/-- Settles O39. -/
theorem invariantHoldsAtReset : Obligations.InvariantHoldsAtReset := inv_reset

/-- Settles O40, by the cases of a step. -/
theorem everyStepKeepsTheInvariant : Obligations.EveryStepKeepsTheInvariant := by
  intro s t h ht
  obtain ⟨-, hs⟩ | ⟨_, rest, -, -, hs⟩ | ⟨_, rest, i, u, -, -, -, hs, hc⟩ | ⟨_, rest, _, -, -, -, hs⟩ := step_cases s <;>
    cases hs.symm.trans ht
  · exact h
  · exact inv_reset.with_inputs rest
  · exact hc.inv (h.with_inputs rest)
  · exact (h.with_inputs rest).after_cmdFault nofun

/-! ## Which command writes which register -/

/-- ERR, ECODE and what the host will present are the state beside the cipher. -/
theorem sameCipher_with_history (s : State) (e : Bool) (c : ECode) (l : List HostInput) :
    sameCipher s { s with err := e, ecode := c, inputs := l } :=
  ⟨rfl, rfl, rfl, rfl, rfl, rfl, rfl⟩

/-- A command fault leaves the cipher alone (R232). -/
theorem sameCipher_cmdFault (c : ECode) (s : State) : sameCipher s (cmdFault c s) :=
  sameCipher_with_history s _ _ _

/-- A fault recorded after the first leaves ECODE (R233). -/
theorem cmdFault_ecode_of_err {s : State} (h : s.err = true) (c : ECode) : (cmdFault c s).ecode = s.ecode := by
  simp [h]

theorem err_of_cmdFault_ecode_ne {s : State} {c : ECode} (h : (cmdFault c s).ecode ≠ s.ecode) : s.err = false :=
  Bool.eq_false_iff.2 fun he => h (cmdFault_ecode_of_err he c)

section Writers

variable {i : Instr} {s t : State} (hc : ExecCase i s t)
include hc

theorem ExecCase.phase_writers (h : t.phase ≠ s.phase) : (∃ m k v, i = .load m k v) ∨ i = .initf := by
  cases hc with
  | load m k iv => exact .inl ⟨m, k, iv, rfl⟩
  | initf => exact .inr rfl
  | nop | initr | gen | initrFault | initfFault | genFault => exact absurd rfl h

theorem ExecCase.rnd_writers (h : t.rnd ≠ s.rnd) : (∃ m k v, i = .load m k v) ∨ i = .initr := by
  cases hc with
  | load m k iv => exact .inl ⟨m, k, iv, rfl⟩
  | initr => exact .inr rfl
  | nop | initf | gen | initrFault | initfFault | genFault => exact absurd rfl h

theorem ExecCase.z_writers (h : t.zreg ≠ s.zreg ∨ t.zv ≠ s.zv) : (∃ m k v, i = .load m k v) ∨ i = .gen := by
  cases hc with
  | load m k iv => exact .inl ⟨m, k, iv, rfl⟩
  | gen => exact .inr rfl
  | nop | initr | initf | initrFault | initfFault | genFault => exact (h.elim (· rfl) (· rfl)).elim

theorem ExecCase.eq_of_nop (hi : i = .nop) : t = s := by
  subst hi
  cases hc with
  | nop => rfl

/-- Only a recorded fault touches ERR and ECODE. -/
theorem ExecCase.history_cases :
    (t.err = s.err ∧ t.ecode = s.ecode) ∨
      ((i = .initr ∨ i = .initf ∨ i = .gen) ∧ ∃ c, t = cmdFault c s) := by
  cases hc with
  | nop | load | initr | initf | gen => exact .inl ⟨rfl, rfl⟩
  | initrFault => exact .inr ⟨.inl rfl, _, rfl⟩
  | initfFault => exact .inr ⟨.inr (.inl rfl), _, rfl⟩
  | genFault => exact .inr ⟨.inr (.inr rfl), _, rfl⟩

theorem ExecCase.ecode_changes_at_first_fault (h : t.ecode ≠ s.ecode) : s.err = false ∧ t.err = true := by
  obtain ⟨-, he⟩ | ⟨-, c, rfl⟩ := hc.history_cases
  · exact absurd he h
  · exact ⟨err_of_cmdFault_ecode_ne h, rfl⟩

theorem ExecCase.err_writers (h : t.err ≠ s.err) :
    t.err = true ∧ (i = .initr ∨ i = .initf ∨ i = .gen) ∧ sameCipher s t := by
  obtain ⟨he, -⟩ | ⟨hi, c, rfl⟩ := hc.history_cases
  · exact absurd he h
  · exact ⟨rfl, hi, sameCipher_cmdFault c s⟩

/-- No command clears ERR or changes the recorded cause (R26, R27). -/
theorem ExecCase.err_sticky (h : s.err = true) : t.err = true ∧ t.ecode = s.ecode := by
  obtain ⟨he, hcode⟩ | ⟨-, c, rfl⟩ := hc.history_cases
  · exact ⟨he.trans h, hcode⟩
  · exact ⟨rfl, cmdFault_ecode_of_err h c⟩

end Writers

/-- Settles O24, register by register. -/
theorem writersOfEachRegister : Obligations.WritersOfEachRegister := by
  intro i s t h
  have hc := exec_next_case h
  refine ⟨exec_inputs h, hc.phase_writers, hc.rnd_writers, hc.z_writers, ?_, hc.ecode_changes_at_first_fault,
    hc.err_writers⟩
  intro hne hi
  simp [hc.eq_of_nop hi] at hne

/-- Settles O25, by the cases of a step; the reset is the one that the hypothesis excludes. -/
theorem errorIsStickyUntilReset : Obligations.ErrorIsStickyUntilReset := by
  intro s hrst herr
  obtain ⟨-, hs⟩ | ⟨b, rest, hin, hr, -⟩ | ⟨b, rest, i, t, -, -, -, hs, hc⟩ | ⟨b, rest, op, -, -, -, hs⟩ := step_cases s
  · exact ⟨s, hs, herr, rfl⟩
  · have hr' : b.rst = false := hrst b (by simp [hin])
    exact absurd hr (by simp [hr'])
  · exact ⟨t, hs, hc.err_sticky herr⟩
  · exact ⟨_, hs, rfl, cmdFault_ecode_of_err (s := { s with inputs := rest }) herr _⟩

/-! ## The layout of STATUS -/

/-- STATUS as a number: its fields stand side by side, and RND fits in its six bits (R30). -/
theorem status_toNat (s : State) :
    (status s).toNat =
      (phaseBits s.phase).toNat + 4 * s.zv.toNat + 8 * s.err.toNat + 16 * (ecodeBits s.ecode).toNat
        + 256 * s.rnd.val := by
  rw [status, BitVec.toNat_setWidth_of_le (by omega)]
  simp only [toNat_concat, BitVec.ofNat_eq_ofNat, BitVec.toNat_ofNat, BitVec.toNat_ofBool]
  omega

/-- Settles O26: the codes of PHASE and ECODE put into the fields. -/
theorem statusLayout : Obligations.StatusLayout := by
  intro s
  rw [status_toNat]
  cases s.phase <;> cases s.ecode <;> rfl

/-! ## The fault history and the cipher -/

/-- States with the same cipher differ in ERR, ECODE and what the host will present only. -/
theorem sameCipher.eq_with_history {s t : State} (h : sameCipher s t) :
    t = { s with err := t.err, ecode := t.ecode, inputs := t.inputs } := by
  obtain ⟨hl, h1, h2, hp, hr, hz, hv⟩ := h
  cases t
  simp_all

/-- A command reads neither ERR nor ECODE: at another history it takes the same case and leaves the same cipher. -/
theorem ExecCase.with_history {i : Instr} {s s' : State} (hc : ExecCase i s s') (e : Bool) (c : ECode)
    (l : List HostInput) :
    ∃ t', exec i { s with err := e, ecode := c, inputs := l } = .next t' ∧ sameCipher s' t' := by
  cases hc with
  | nop => exact ⟨_, rfl, sameCipher_with_history _ e c l⟩
  | load m k iv => exact ⟨_, rfl, sameCipher_with_history _ e c l⟩
  | initr hp hr =>
    exact ⟨_, execInitr_of_legal ((initrLegal_iff _).2 ⟨hp, hr⟩), sameCipher_with_history _ e c l⟩
  | initf hp hr =>
    exact ⟨_, execInitf_of_legal ((initfLegal_iff _).2 ⟨hp, hr⟩), sameCipher_with_history _ e c l⟩
  | gen hp => exact ⟨_, execGen_of_legal ((genLegal_iff _).2 hp), sameCipher_with_history _ e c l⟩
  | initrFault hn =>
    exact ⟨_, execInitr_of_illegal fun hl => hn ((initrLegal_iff _).1 hl), sameCipher_with_history _ _ _ l⟩
  | initfFault hn =>
    exact ⟨_, execInitf_of_illegal fun hl => hn ((initfLegal_iff _).1 hl), sameCipher_with_history _ _ _ l⟩
  | genFault hn =>
    exact ⟨_, execGen_of_illegal fun hl => hn ((genLegal_iff _).1 hl), sameCipher_with_history _ _ _ l⟩

/-- One command at two states with the same cipher leaves the same cipher. -/
theorem exec_sameCipher (i : Instr) {s t : State} (h : sameCipher s t) :
    ∃ s' t', exec i s = .next s' ∧ exec i t = .next t' ∧ sameCipher s' t' := by
  obtain ⟨s', hs, hc⟩ := exec_cases i s
  rw [h.eq_with_history]
  obtain ⟨t', ht, hst⟩ := hc.with_history t.err t.ecode t.inputs
  exact ⟨s', t', hs, ht, hst⟩

/-- Settles O41, by what is presented: a reset, a command or a reserved word. -/
theorem faultHistoryNeverReachesTheCipher : Obligations.FaultHistoryNeverReachesTheCipher := by
  intro s t b h
  cases hr : b.rst with
  | true => exact ⟨_, _, step_of_reset rfl hr, step_of_reset rfl hr, sameCipher_with_history _ _ _ _⟩
  | false =>
    cases hd : decode b with
    | cmd i =>
      rw [step_present_cmd s hr hd, step_present_cmd t hr hd]
      exact exec_sameCipher i h
    | reserved op => exact ⟨_, _, step_of_reserved rfl hr hd, step_of_reserved rfl hr hd, h⟩

end Sys2Proof.Machine

/-! The statements about what is kept where (spec/20_memory.md): the key and IV bytes on the buses, and the instances of
a platform, which share no state. -/

namespace Sys2Proof.Machine

/-! ## The bytes on the buses -/

/-- A byte of the key as a number, byte 0 in the most significant bits (R52). -/
theorem keyByte_toNat (k : KeyBus) (j : Nat) : (keyByte k j).toNat = k.toNat / 2 ^ (248 - 8 * j) % 256 := by
  rw [keyByte, BitVec.extractLsb'_toNat, Nat.shiftRight_eq_div_pow]

/-- A byte of the IV as a number, byte 0 in the most significant bits (R52). -/
theorem ivByte_toNat (v : IvBus) (j : Nat) : (ivByte v j).toNat = v.toNat / 2 ^ (120 - 8 * j) % 256 := by
  rw [ivByte, BitVec.extractLsb'_toNat, Nat.shiftRight_eq_div_pow]

/-- Settles O13; the rule's example is one key, of 32 bytes. -/
theorem keyAndIvBytesOnTheBuses : Obligations.KeyAndIvBytesOnTheBuses :=
  ⟨fun k j _ => keyByte_toNat k j, fun v j _ => ivByte_toNat v j, by decide⟩

/-! ## The instances of a platform -/

/-- Every step answers a next state. -/
theorem exists_step_next (s : State) : ∃ t, step s = .next t := by
  obtain ⟨-, h⟩ | ⟨_, _, -, -, h⟩ | ⟨_, _, _, _, -, -, -, h, -⟩ | ⟨_, _, _, -, -, -, h⟩ := step_cases s <;>
    exact ⟨_, h⟩

section Instances

variable {p : Config.OpenParams}

/-- A step of one instance replaces that instance's state. -/
theorem Platform.stepAt_of_next {c : Platform p} {k : Fin p.nCores} {t : State} (h : step (c.get k) = .next t) :
    Platform.stepAt k c = .next (c.set k t) := by
  simp only [Platform.stepAt, h]

theorem Platform.get_set_self (c : Platform p) (k : Fin p.nCores) (t : State) :
    Vector.get (c.set k t) k = t := by
  rw [Vector.get_eq_getElem, Vector.getElem_set_self]

/-- Writing one instance leaves every other (R35). -/
theorem Platform.get_set_of_ne {i j : Fin p.nCores} (h : i ≠ j) (c : Platform p) (t : State) :
    Vector.get (c.set i t) j = c.get j := by
  rw [Vector.get_eq_getElem, Vector.getElem_set_ne _ _ (Fin.val_ne_of_ne h), Vector.get_eq_getElem]

end Instances

/-- Settles O46: each step reads and writes its own instance, so both orders set the same two states. -/
theorem instancesShareNothing : Obligations.InstancesShareNothing := by
  intro p c i j hij
  obtain ⟨ti, hi⟩ := exists_step_next (c.get i)
  obtain ⟨tj, hj⟩ := exists_step_next (c.get j)
  have hj_after_i : step (Vector.get (c.set i ti) j) = .next tj := by rwa [Platform.get_set_of_ne hij]
  have hi_after_j : step (Vector.get (c.set j tj) i) = .next ti := by rwa [Platform.get_set_of_ne hij.symm]
  have hcomm : (c.set j tj).set i ti = (c.set i ti).set j tj := Vector.set_comm _ _ (Fin.val_ne_of_ne hij.symm)
  refine ⟨c.set i ti, c.set j tj, (c.set i ti).set j tj, Platform.stepAt_of_next hi,
    Platform.stepAt_of_next hj_after_i, Platform.stepAt_of_next hj, ?_, Platform.get_set_of_ne hij c ti, ?_⟩
  · rw [Platform.stepAt_of_next hi_after_j, hcomm]
  · rw [Platform.get_set_self, hi]

end Sys2Proof.Machine

/-! The statements about the encoding (spec/30_encoding.md): the decoder and the encoder agree, which words decode to
which operation, the sequences of the pseudo-commands, and the step that runs what was decoded. -/

namespace Sys2Proof

open Sys2Proof.Laws.Encoding (Statement opField_append modeField_append)

/-! ## Which inputs decode to an operation -/

/-- What the decoder answers: a command whose OP the word holds, or the reserved OP of the word itself (R83, R88). -/
theorem decode_cases (b : HostInput) :
    (∃ i, decode b = .cmd i ∧ opField b.cmd = opBits i) ∨
      (decode b = .reserved (opField b.cmd) ∧ 5 ≤ (opField b.cmd).toNat) := by
  obtain h | h | h | h | h | h := op_cases (opField b.cmd)
  · exact .inl ⟨_, decode_nop h, h⟩
  · exact .inl ⟨_, decode_load h, h⟩
  · exact .inl ⟨_, decode_initr h, h⟩
  · exact .inl ⟨_, decode_initf h, h⟩
  · exact .inl ⟨_, decode_gen h, h⟩
  · exact .inr ⟨decode_reserved h, h⟩

theorem opField_of_decode_cmd {b : HostInput} {i : Instr} (h : decode b = .cmd i) : opField b.cmd = opBits i := by
  obtain ⟨j, hj, hop⟩ | ⟨hr, -⟩ := decode_cases b
  · cases hj.symm.trans h
    exact hop
  · cases hr.symm.trans h

theorem decode_eq_nop_iff {b : HostInput} : decode b = .cmd .nop ↔ opField b.cmd = 0 :=
  ⟨opField_of_decode_cmd, decode_nop⟩

theorem decode_eq_initr_iff {b : HostInput} : decode b = .cmd .initr ↔ opField b.cmd = 2 :=
  ⟨opField_of_decode_cmd, decode_initr⟩

theorem decode_eq_initf_iff {b : HostInput} : decode b = .cmd .initf ↔ opField b.cmd = 3 :=
  ⟨opField_of_decode_cmd, decode_initf⟩

theorem decode_eq_gen_iff {b : HostInput} : decode b = .cmd .gen ↔ opField b.cmd = 4 :=
  ⟨opField_of_decode_cmd, decode_gen⟩

theorem decode_eq_reserved_iff {b : HostInput} {op : BitVec 4} :
    decode b = .reserved op ↔ 5 ≤ op.toNat ∧ opField b.cmd = op := by
  constructor
  · intro h
    obtain ⟨i, hi, -⟩ | ⟨hr, h5⟩ := decode_cases b
    · cases hi.symm.trans h
    · cases hr.symm.trans h
      exact ⟨h5, rfl⟩
  · rintro ⟨h5, rfl⟩
    exact decode_reserved h5

/-- A word is LOAD in a mode when it is that mode's MODE field above OP 0x1; the operands are the buses (R84, R86). -/
theorem decode_of_load_word {b : HostInput} (m : Mode) (h : b.cmd = modeBits m ++ (1 : BitVec 4)) :
    decode b = .cmd (.load m b.key b.ivb) := by
  have hop : opField b.cmd = 1 := by rw [h, opField_append]
  rw [decode_load hop, h, modeField_append, modeOfBits_modeBits]

/-- The words of one OP are its four MODE fields above it. -/
theorem opField_eq_iff_mem (o : BitVec 4) (w : CmdWord) :
    opField w = o ↔ w ∈ [(0 : BitVec 2) ++ o, (1 : BitVec 2) ++ o, (2 : BitVec 2) ++ o, (3 : BitVec 2) ++ o] := by
  constructor
  · rintro rfl
    have hmode : ∀ m : BitVec 2, m = 0 ∨ m = 1 ∨ m = 2 ∨ m = 3 := by decide
    have hw := fields_append w
    obtain h | h | h | h := hmode (modeField w) <;> simp [← h, hw]
  · simp only [List.mem_cons, List.not_mem_nil, or_false]
    rintro (rfl | rfl | rfl | rfl) <;> exact opField_append _ _

/-- 44 of the 64 words are reserved (R88). -/
theorem reserved_words_count : ((List.range 64).filter fun w => (decodeTableWord 8 w).isNone).length = 44 := by
  decide

/-- Settles O2: an operation is decoded from the words of its OP. -/
theorem eachCommandWordDecodesToOneOperation : Obligations.EachCommandWordDecodesToOneOperation := by
  refine ⟨fun b => ⟨?nop, decode_of_load_word .encrypt, decode_of_load_word .mac32, decode_of_load_word .mac64,
    decode_of_load_word .mac128, ?load, ?initr, ?initf, ?gen, ?reserved⟩, reserved_words_count⟩
  case nop => exact decode_eq_nop_iff.trans (opField_eq_iff_mem 0 b.cmd)
  case load => exact fun m k v h => (opField_eq_iff_mem 1 b.cmd).1 (opField_of_decode_cmd h)
  case initr => exact decode_eq_initr_iff.trans (opField_eq_iff_mem 2 b.cmd)
  case initf => exact decode_eq_initf_iff.trans (opField_eq_iff_mem 3 b.cmd)
  case gen => exact decode_eq_gen_iff.trans (opField_eq_iff_mem 4 b.cmd)
  case reserved =>
    intro op
    rw [decode_eq_reserved_iff, ← BitVec.toNat_inj, opField_toNat]
    omega

/-- Settles O3: each word is a MODE field above its operation's OP. -/
theorem wordsOfTheOpcodeTableDecode : Obligations.WordsOfTheOpcodeTableDecode := fun _ _ =>
  ⟨decode_nop (opField_append 0 0), decode_of_load_word .mac32 rfl, decode_of_load_word .mac64 rfl,
    decode_initr (opField_append 0 2), decode_initf (opField_append 0 3), decode_gen (opField_append 3 4),
    decode_eq_reserved_iff.2 ⟨by decide, opField_append 2 0xF⟩⟩

/-! ## The encoder -/

theorem encoding_statement : ∀ i : Instr, Statement i
  | .nop => Laws.Encoding.nop
  | .load m k iv => Laws.Encoding.load m k iv
  | .initr => Laws.Encoding.initr
  | .initf => Laws.Encoding.initf
  | .gen => Laws.Encoding.gen

@[simp] theorem encode_rst (i : Instr) : (encode i).rst = false := by
  obtain ⟨-, -, -, -, hrst⟩ := encoding_statement i
  exact hrst

theorem opField_encode (i : Instr) : opField (encode i).cmd = opBits i := by
  obtain ⟨-, hop, -, hcmd, -⟩ := encoding_statement i
  rw [hcmd, hop]

@[simp] theorem decode_encode (i : Instr) : decode (encode i) = .cmd i := by
  cases i with
  | nop => exact decode_nop (opField_encode .nop)
  | load m k iv => exact decode_of_load_word m rfl
  | initr => exact decode_initr (opField_encode .initr)
  | initf => exact decode_initf (opField_encode .initf)
  | gen => exact decode_gen (opField_encode .gen)

/-- Settles O1. -/
theorem decodeOfEncodeIsTheInstruction : Obligations.DecodeOfEncodeIsTheInstruction := fun i _ =>
  ⟨encode_rst i, decode_encode i⟩

end Sys2Proof

namespace Sys2Proof.Machine

/-! ## The pseudo-commands -/

theorem map_decode_initSeq : initSeq.map decode = List.replicate 48 (.cmd .initr) ++ [.cmd .initf] := by
  simp only [initSeq, List.map_append, List.map_replicate, List.map_singleton, decode_encode]

theorem map_decode_newSeq (m : Mode) (k : KeyBus) (v : IvBus) :
    (newSeq m k v).map decode = .cmd (.load m k v) :: (List.replicate 48 (.cmd .initr) ++ [.cmd .initf]) := by
  rw [newSeq, List.map_cons, decode_encode, map_decode_initSeq]

theorem map_decode_gennSeq (n : Nat) : (gennSeq n).map decode = List.replicate n (.cmd .gen) := by
  rw [gennSeq, List.map_replicate, decode_encode]

theorem initSeq_length : initSeq.length = 49 := by simp [initSeq]

theorem newSeq_length (m : Mode) (k : KeyBus) (v : IvBus) : (newSeq m k v).length = 50 := by
  rw [newSeq, List.length_cons, initSeq_length]

theorem gennSeq_length (n : Nat) : (gennSeq n).length = n := List.length_replicate

/-- The inputs of NEW and GENN are encoded commands. -/
theorem exists_encode_of_mem_pseudo {m : Mode} {k : KeyBus} {v : IvBus} {n : Nat} {b : HostInput}
    (h : b ∈ newSeq m k v ++ gennSeq n) : ∃ i, b = encode i := by
  simp only [newSeq, initSeq, gennSeq, List.mem_append, List.mem_cons, List.mem_replicate, List.not_mem_nil,
    or_false] at h
  obtain (h | ⟨-, h⟩ | h) | ⟨-, h⟩ := h <;> exact ⟨_, h⟩

/-- Settles O4. -/
theorem pseudoCommandsExpandToTheirSequences : Obligations.PseudoCommandsExpandToTheirSequences := by
  intro m k v n
  refine ⟨map_decode_initSeq, map_decode_newSeq m k v, map_decode_gennSeq n, initSeq_length, newSeq_length m k v,
    gennSeq_length n, fun b hb => ?_⟩
  obtain ⟨i, rfl⟩ := exists_encode_of_mem_pseudo hb
  exact encode_rst i

/-! ## The step and the decoded input -/

/-- Settles O5. -/
theorem stepRunsTheDecodedCommand : Obligations.StepRunsTheDecodedCommand := fun _ _ _ _ hin hr hd _ =>
  step_of_cmd hin hr hd

theorem decode_of_decodeTableWord {nbits w : Nat} {i : Instr} (h : decodeTableWord nbits w = some i) :
    decode (tableInput nbits w) = .cmd i := by
  unfold decodeTableWord at h
  cases hd : decode (tableInput nbits w) with
  | cmd j => simpa [hd] using h
  | reserved op => simp [hd] at h

/-- Settles O6: the presented word is the next input, and the step takes it off again. -/
theorem fetchWordRunsNext : Obligations.FetchWordRunsNext := fun s _ _ _ h =>
  step_present_cmd s rfl (decode_of_decodeTableWord h)

/-- Settles O21. -/
theorem reservedWordRecordsFaultOne : Obligations.ReservedWordRecordsFaultOne := by
  intro s b rest hin hr h5
  rw [← opField_toNat] at h5
  exact step_of_reserved hin hr (decode_reserved h5)

/-- But for LOAD, the decoder reads the OP alone (R85, R268). -/
theorem decode_eq_of_opField_eq {b b' : HostInput} (h : opField b.cmd = opField b'.cmd) (hl : opField b.cmd ≠ 1) :
    decode b = decode b' := by
  simp only [decode, ← h, if_neg hl]

/-- A step reads its input through the decoder alone. -/
theorem step_eq_of_decode_eq {b b' : HostInput} (hr : b.rst = false) (hr' : b'.rst = false)
    (hd : decode b = decode b') (s : State) (rest : List HostInput) :
    step { s with inputs := b :: rest } = step { s with inputs := b' :: rest } := by
  cases h : decode b with
  | cmd i => rw [step_of_cmd rfl hr h, step_of_cmd rfl hr' (hd.symm.trans h)]
  | reserved op => rw [step_of_reserved rfl hr h, step_of_reserved rfl hr' (hd.symm.trans h)]

/-- Settles O42: the two inputs decode alike. -/
theorem busesAreReadByLoadOnly : Obligations.BusesAreReadByLoadOnly := by
  intro s b b' rest hr hr' hop hload
  have hfield : opField b.cmd = opField b'.cmd := by rw [← BitVec.toNat_inj, opField_toNat, opField_toNat, hop]
  have hne : opField b.cmd ≠ 1 := fun h => hload (by rw [← opField_toNat, h]; rfl)
  exact step_eq_of_decode_eq hr hr' (decode_eq_of_opField_eq hfield hne) s rest

end Sys2Proof.Machine

/-! The statements about the arithmetic (spec/40_arith.md): the modular adder, the 31-bit rotator, and the linear
transforms L1 and L2. -/

namespace Sys2Proof.Machine

/-! ## The representative of a class modulo 2^31 - 1 -/

theorem rep_of_pos {n : Nat} (h : 0 < n) : rep n = (n - 1) % 2147483647 + 1 := if_neg h.ne'

theorem rep_pos {n : Nat} (h : 0 < n) : 1 ≤ rep n := by
  rw [rep_of_pos h]
  omega

theorem rep_le (n : Nat) : rep n ≤ 2147483647 := by
  obtain rfl | h := n.eq_zero_or_pos
  · decide
  · rw [rep_of_pos h]
    omega

theorem rep_mod (n : Nat) : rep n % 2147483647 = n % 2147483647 := by
  obtain rfl | h := n.eq_zero_or_pos
  · rfl
  · rw [rep_of_pos h]
    omega

/-- A class has one member from 1 to 2^31 - 1 (R111). -/
theorem eq_of_mod_eq {r r' : Nat} (h1 : 1 ≤ r) (h2 : r ≤ 2147483647) (h1' : 1 ≤ r') (h2' : r' ≤ 2147483647)
    (h : r % 2147483647 = r' % 2147483647) : r = r' := by
  omega

/-- rep depends on the class and on whether the number is 0. -/
theorem rep_congr {m n : Nat} (h0 : m = 0 ↔ n = 0) (h : m % 2147483647 = n % 2147483647) : rep m = rep n := by
  obtain rfl | hm := m.eq_zero_or_pos
  · rw [h0.1 rfl]
  · have hn : 0 < n := by omega
    exact eq_of_mod_eq (rep_pos hm) (rep_le m) (rep_pos hn) (rep_le n) (by rw [rep_mod, rep_mod, h])

theorem rep_of_le {n : Nat} (h : n ≤ 2147483647) : rep n = n := by
  obtain rfl | hn := n.eq_zero_or_pos
  · rfl
  · exact eq_of_mod_eq (rep_pos hn) (rep_le n) hn h (rep_mod n)

theorem rep_eq_zero {n : Nat} : rep n = 0 ↔ n = 0 := by
  constructor
  · intro h
    by_contra hn
    have := rep_pos (Nat.pos_of_ne_zero hn)
    omega
  · rintro rfl
    rfl

/-- A part of a sum may be replaced by its representative. -/
theorem rep_rep_add (m n : Nat) : rep (rep m + n) = rep (m + n) := by
  refine rep_congr ?_ ?_
  · rw [Nat.add_eq_zero_iff, Nat.add_eq_zero_iff, rep_eq_zero]
  · rw [Nat.add_mod, rep_mod, ← Nat.add_mod]

theorem rep_add_rep (m n : Nat) : rep (m + rep n) = rep (m + n) := by
  rw [Nat.add_comm, rep_rep_add, Nat.add_comm]

/-! ## The modular adder -/

theorem cell_toNat_le (a : Cell) : a.toNat ≤ 2147483647 := Nat.le_of_lt_succ a.isLt

/-- The adder gives the representative of the integer sum (R111 (5)). -/
theorem addMod31_toNat_eq_rep (a b : Cell) : (addMod31 a b).toNat = rep (a.toNat + b.toNat) := by
  have ha := cell_toNat_le a
  have hb := cell_toNat_le b
  rw [addMod31_toNat]
  split
  case isTrue h => exact (rep_of_le (by omega)).symm
  case isFalse h =>
    rw [rep_of_pos (by omega)]
    omega

theorem addMod31_comm (a b : Cell) : addMod31 a b = addMod31 b a := by
  rw [← BitVec.toNat_inj, addMod31_toNat_eq_rep, addMod31_toNat_eq_rep, Nat.add_comm]

theorem addMod31_assoc (a b c : Cell) : addMod31 (addMod31 a b) c = addMod31 a (addMod31 b c) := by
  simp only [← BitVec.toNat_inj, addMod31_toNat_eq_rep, rep_rep_add, rep_add_rep, Nat.add_assoc]

/-- The first fold of a sum of two cells already clears bit 31 (R111 (4)). -/
theorem fold31_sum_le (a b : Cell) : (fold31 (a.setWidth 32 + b.setWidth 32)).toNat ≤ 2147483647 := by
  have ha := cell_toNat_le a
  have hb := cell_toNat_le b
  simp only [fold31_toNat, BitVec.toNat_add, BitVec.toNat_setWidth]
  omega

/-- A fold leaves a word whose bit 31 is clear. -/
theorem fold31_eq_self {c : Word} (h : c.toNat ≤ 2147483647) : fold31 c = c := by
  rw [← BitVec.toNat_inj, fold31_toNat]
  omega

/-- A running sum of cells, from any start. -/
theorem foldl_addMod31_toNat (xs : List Cell) (a : Cell) :
    (xs.foldl addMod31 a).toNat = rep (a.toNat + (xs.map BitVec.toNat).sum) := by
  induction xs generalizing a with
  | nil => exact (rep_of_le (cell_toNat_le a)).symm
  | cons x xs ih =>
    rw [List.foldl_cons, ih, addMod31_toNat_eq_rep, rep_rep_add, List.map_cons, List.sum_cons, Nat.add_assoc]

/-- Settles O27, from the laws of rep. -/
theorem adderLaws : Obligations.AdderLaws := by
  refine ⟨fun a b => ?_, fun xs => ?sums⟩
  case sums => simpa using foldl_addMod31_toNat xs 0
  have hrep := addMod31_toNat_eq_rep a b
  refine ⟨cell_toNat_le _, by rw [hrep, rep_mod], addMod31_eq_zero, fun r hpos h1 h2 hr => ?unique,
    fold31_sum_le a b, fold31_eq_self (fold31_sum_le a b), hrep, addMod31_comm a b, addMod31_assoc a b⟩
  case unique =>
    rw [hrep]
    exact eq_of_mod_eq h1 h2 (rep_pos hpos) (rep_le _) (hr.trans (rep_mod _).symm)

/-! ## The 31-bit rotator -/

/-- The amounts the core uses are below 31 (R112). -/
theorem rotatorAmount_lt {k : Nat} (h : k ∈ [8, 15, 17, 20, 21]) : k < 31 := by
  revert k
  decide

/-- Settles O28. -/
theorem rotatorMovesBitsLeft : Obligations.RotatorMovesBitsLeft := fun s k i hk hi =>
  mul31_getLsbD s k i (rotatorAmount_lt hk) hi

/-- The rotator as a number: the k high bits come to the bottom, the others move up by k. -/
theorem mul31_toNat (s : Cell) {k : Nat} (hk : k < 31) :
    (mul31 s k).toNat = 2 ^ k * (s.toNat % 2 ^ (31 - k)) + s.toNat / 2 ^ (31 - k) := by
  have hpow : 2 ^ 31 = 2 ^ (31 - k) * 2 ^ k := by rw [← Nat.pow_add, Nat.sub_add_cancel hk.le]
  have hhigh : s.toNat / 2 ^ (31 - k) < 2 ^ k := Nat.div_lt_of_lt_mul (hpow ▸ s.isLt)
  have hlow : s.toNat <<< k % 2 ^ 31 = 2 ^ k * (s.toNat % 2 ^ (31 - k)) := by
    rw [Nat.shiftLeft_eq, hpow, Nat.mul_mod_mul_right, Nat.mul_comm]
  rw [mul31, BitVec.toNat_or, BitVec.toNat_shiftLeft, BitVec.toNat_ushiftRight, hlow, Nat.shiftRight_eq_div_pow,
    Nat.two_pow_add_eq_or_of_lt hhigh]

/-- The rotator multiplies by 2^k, since 2^31 is 1 modulo 2^31 - 1 (R113). -/
theorem mul31_congr (s : Cell) {k : Nat} (hk : k < 31) :
    (mul31 s k).toNat % 2147483647 = 2 ^ k * s.toNat % 2147483647 := by
  have hpow : 2 ^ k * 2 ^ (31 - k) = 2147483647 + 1 := by rw [← Nat.pow_add, Nat.add_sub_cancel' hk.le]
  have hsplit : 2 ^ k * s.toNat = (mul31 s k).toNat + 2147483647 * (s.toNat / 2 ^ (31 - k)) := by
    calc 2 ^ k * s.toNat
        = 2 ^ k * (s.toNat % 2 ^ (31 - k) + 2 ^ (31 - k) * (s.toNat / 2 ^ (31 - k))) := by rw [Nat.mod_add_div]
      _ = 2 ^ k * (s.toNat % 2 ^ (31 - k)) + (2147483647 + 1) * (s.toNat / 2 ^ (31 - k)) := by
        rw [Nat.mul_add, ← Nat.mul_assoc, hpow]
      _ = (mul31 s k).toNat + 2147483647 * (s.toNat / 2 ^ (31 - k)) := by
        rw [mul31_toNat s hk]
        omega
  rw [hsplit, Nat.add_mul_mod_self_left]

/-- Two rotations compose (R113). -/
theorem mul31_mul31 (s : Cell) {j k : Nat} (hj : j < 31) (hk : k < 31) :
    mul31 (mul31 s j) k = mul31 s ((j + k) % 31) := by
  apply BitVec.eq_of_getLsbD_eq
  intro i hi
  rw [mul31_getLsbD _ k i hk hi, mul31_getLsbD s j _ hj (Nat.mod_lt _ (by decide)),
    mul31_getLsbD s _ i (Nat.mod_lt _ (by decide)) hi]
  congr 1
  omega

theorem mul31_zero_amount (s : Cell) : mul31 s 0 = s := by
  apply BitVec.eq_of_getLsbD_eq
  intro i hi
  rw [mul31_getLsbD s 0 i (by decide) hi, Nat.sub_zero, Nat.add_mod_right, Nat.mod_eq_of_lt hi]

theorem mul31_allOnes {k : Nat} (hk : k < 31) : mul31 (BitVec.allOnes 31) k = BitVec.allOnes 31 := by
  apply BitVec.eq_of_getLsbD_eq
  intro i hi
  rw [mul31_getLsbD _ k i hk hi, BitVec.getLsbD_allOnes, BitVec.getLsbD_allOnes, decide_eq_true hi,
    decide_eq_true (Nat.mod_lt _ (by decide))]

/-- The rotation by the rest of the circle undoes a rotation. -/
theorem mul31_bijective {k : Nat} (hk : k < 31) : Function.Bijective fun x : Cell => mul31 x k := by
  have hback : (31 - k) % 31 < 31 := Nat.mod_lt _ (by decide)
  have hround : (k + (31 - k) % 31) % 31 = 0 := by omega
  refine Function.bijective_iff_has_inverse.2 ⟨fun x => mul31 x ((31 - k) % 31), fun x => ?_, fun x => ?_⟩
  · exact (mul31_mul31 x hk hback).trans (by rw [hround, mul31_zero_amount])
  · exact (mul31_mul31 x hback hk).trans (by rw [Nat.add_comm, hround, mul31_zero_amount])

/-- Settles O29; the five values at 0x12345678 are evaluated. -/
theorem rotatorMultipliesByAPowerOfTwo : Obligations.RotatorMultipliesByAPowerOfTwo := by
  refine ⟨fun s k hk => ?_, by decide⟩
  have hlt := rotatorAmount_lt hk
  exact ⟨mul31_congr s hlt, mul31_eq_zero hlt, mul31_allOnes hlt, mul31_bijective hlt,
    fun j hj => mul31_mul31 s (rotatorAmount_lt hj) hlt⟩

/-! ## L1 and L2 -/

/-- Settles O30. -/
theorem linearTransformsBitByBit : Obligations.LinearTransformsBitByBit := by
  intro x i hi
  have hrot : ∀ k < 32, (rot32 x k).getLsbD i = x.getLsbD ((i + (32 - k)) % 32) := fun k hk => by
    rw [rot32_getLsbD x k i hk hi, Nat.add_sub_assoc hk.le]
  constructor
  · simp only [l1, BitVec.getLsbD_xor, hrot 2 (by decide), hrot 10 (by decide), hrot 18 (by decide),
      hrot 24 (by decide)]
  · simp only [l2, BitVec.getLsbD_xor, hrot 8 (by decide), hrot 14 (by decide), hrot 22 (by decide),
      hrot 30 (by decide)]

/-- A map of words that distributes over exclusive OR and commutes with every rotation (R119). -/
structure RotLinear (f : Word → Word) : Prop where
  map_xor : ∀ x y : Word, f (x ^^^ y) = f x ^^^ f y
  map_rot32 : ∀ (x : Word) (j : Nat), j < 32 → f (rot32 x j) = rot32 (f x) j

namespace RotLinear

variable {f g : Word → Word}

theorem identity : RotLinear fun x => x := ⟨fun _ _ => rfl, fun _ _ _ => rfl⟩

theorem rotation {k : Nat} (hk : k < 32) : RotLinear fun x => rot32 x k :=
  ⟨fun x y => rot32_xor x y k hk, fun x j hj => rot32_comm x j k hj hk⟩

theorem xor (hf : RotLinear f) (hg : RotLinear g) : RotLinear fun x => f x ^^^ g x where
  map_xor x y := by
    rw [hf.map_xor, hg.map_xor]
    ac_rfl
  map_rot32 x j hj := by rw [hf.map_rot32 x j hj, hg.map_rot32 x j hj, rot32_xor _ _ j hj]

/-- The shape of L1 and of L2 (R117, R118). -/
theorem xor_four_rotations {a b c d : Nat} (ha : a < 32) (hb : b < 32) (hc : c < 32) (hd : d < 32) :
    RotLinear fun x => x ^^^ rot32 x a ^^^ rot32 x b ^^^ rot32 x c ^^^ rot32 x d :=
  (((identity.xor (rotation ha)).xor (rotation hb)).xor (rotation hc)).xor (rotation hd)

theorem map_zero (hf : RotLinear f) : f 0 = 0 := by
  have h := hf.map_xor 0 0
  rwa [BitVec.xor_self, BitVec.xor_self] at h

end RotLinear

theorem l1_rotLinear : RotLinear l1 :=
  RotLinear.xor_four_rotations (by decide) (by decide) (by decide) (by decide)

theorem l2_rotLinear : RotLinear l2 :=
  RotLinear.xor_four_rotations (by decide) (by decide) (by decide) (by decide)

/-- The n low bits of a word, the others 0. -/
def lowBits (x : Word) (n : Nat) : Word := (x.setWidth n).setWidth 32

theorem lowBits_getLsbD (x : Word) (n i : Nat) : (lowBits x n).getLsbD i = (decide (i < n) && x.getLsbD i) := by
  rw [lowBits, BitVec.getLsbD_setWidth, BitVec.getLsbD_setWidth, Bool.and_left_comm, ← BitVec.getLsbD_setWidth,
    BitVec.setWidth_eq]

theorem lowBits_zero (x : Word) : lowBits x 0 = 0 := by
  apply BitVec.eq_of_getLsbD_eq
  intro i _
  simp [lowBits_getLsbD]

theorem lowBits_all (x : Word) : lowBits x 32 = x := by
  apply BitVec.eq_of_getLsbD_eq
  intro i hi
  rw [lowBits_getLsbD, decide_eq_true hi, Bool.true_and]

theorem lowBits_succ (x : Word) (n : Nat) :
    lowBits x (n + 1) = if x.getLsbD n then lowBits x n ^^^ BitVec.twoPow 32 n else lowBits x n := by
  apply BitVec.eq_of_getLsbD_eq
  intro i hi
  obtain rfl | hne := eq_or_ne i n
  · cases hx : x.getLsbD i <;> simp [lowBits_getLsbD, hx, hi, -BitVec.getLsbD_eq_getElem]
  · have hlt : i < n + 1 ↔ i < n := by omega
    split <;> simp [lowBits_getLsbD, hlt, hne.symm, -BitVec.getLsbD_eq_getElem]

/-- A linear map is fixed by its values on the single-bit words: the sum over the n low bits of x is its value there. -/
theorem RotLinear.foldl_range {f : Word → Word} (hf : RotLinear f) (x : Word) (n : Nat) :
    (List.range n).foldl (fun acc i => if x.getLsbD i then acc ^^^ f (BitVec.twoPow 32 i) else acc) 0 =
      f (lowBits x n) := by
  induction n with
  | zero => rw [lowBits_zero, hf.map_zero, List.range_zero, List.foldl_nil]
  | succ n ih =>
    rw [List.range_succ, List.foldl_append, ih, List.foldl_cons, List.foldl_nil, lowBits_succ, apply_ite f, hf.map_xor]

/-- Settles O31: both maps are exclusive ORs of rotations. -/
theorem linearTransformsAreLinear : Obligations.LinearTransformsAreLinear := by
  intro f hf
  have hlin : RotLinear f := by
    simp only [List.mem_cons, List.not_mem_nil, or_false] at hf
    obtain rfl | rfl := hf
    · exact l1_rotLinear
    · exact l2_rotLinear
  exact ⟨hlin.map_xor, hlin.map_rot32, fun x => by rw [hlin.foldl_range, lowBits_all]⟩

end Sys2Proof.Machine

/-! The statements about the S-boxes (spec/41_sbox.md): what the two tables hold, the lanes of S, and that all three are
permutations. -/

namespace Sys2Proof.Machine

/-! ## The tables -/

/-- Settles O53, each table at its 256 addresses. -/
theorem substitutionTablesAtEveryAddress : Obligations.SubstitutionTablesAtEveryAddress := by
  intro a
  constructor
  · revert a
    decide
  · revert a
    decide

/-- The inverse of S0 as rows of the layout of R130: byte b of it is the address at which S0ROM holds b. -/
def s0InverseRows : List (BitVec 128) :=
  [ 0x066DC51E08E54D901C0C8494E758C0DF,
    0x9EB2BA864BD96163A9FAF2115F1B3367,
    0x3D4C85BF66E4A1F1872DC49549196C7E,
    0xE8531307FE98D2823F3B7B708ADA00E6,
    0xDC99B835C9F873032B5B60719D202154,
    0xD45A971D0A4E8F465EB75602B5AF525C,
    0xFF9BD73CB4EFB3C7D53616E3CB0E2E7D,
    0xEAD80134BCB940E2FD9AF91088419255,
    0x7CF459E1222AC179A38BA42C68F0E078,
    0x1F2765CDAAA28E960B23774FBD15D6CE,
    0xF6ECCAA657179C4364EEBEC22F6F6B14,
    0xA58042F5813829EB180D5D4AA039C391,
    0xA831CC8DDD47378C7F75040F89302544,
    0xB009D36E3E62DB7A6A2672F3B12876FB,
    0x05ACDE5024ADC8C6EDAEE974B645FC51,
    0x93CFAB48F7BBD0833212D1A71A3A9F69 ]

/-- The inverse of S1, in the same layout. -/
def s1InverseRows : List (BitVec 128) :=
  [ 0x17A0BBFDEE3743DA6E6FDB3C1385DEB5,
    0x2842FC1665AA1A66C67615C89B8BD3EB,
    0x41CF3868A4F92149EF0C3360C98883F4,
    0x6BD5ECD9DFD74491A72D300409E52773,
    0x1CD41F2E202689063F9EBC7A52907858,
    0xACC34A61D2003255A3F5D00B637D94A6,
    0xE6743E02F0ED396C224CD1C5E7358AB7,
    0x72031B6DCC93290FA8BD5EE8E36ADD50,
    0xCA24989551F2074FE09FF62C105D777C,
    0xABB1D67B12AE238CE2A959F354999608,
    0xB864A5C05692142B197F0D97FA8082FB,
    0xF8E17536B631A171AD9ADC4B57A2F13A,
    0x344601BED8112AB20545E984B99DB347,
    0xB08E53EA4E695CF762250A7E3B40BF5A,
    0x9C2FFE18AF79C4CD8D8FC25FC7B470C1,
    0xBA81FFE4874D48CB1E1D3D67860E5BCE ]

theorem s0InverseRows_s0rom (a : Byte) : romByte s0InverseRows (s0rom a) = a := by
  revert a
  decide

theorem s1InverseRows_s1rom (a : Byte) : romByte s1InverseRows (s1rom a) = a := by
  revert a
  decide

theorem s0rom_injective : Function.Injective s0rom := Function.LeftInverse.injective s0InverseRows_s0rom

theorem s1rom_injective : Function.Injective s1rom := Function.LeftInverse.injective s1InverseRows_s1rom

/-! ## The lanes of S -/

/-- A byte lane as a number. -/
theorem lane_eq_ofNat (a : Word) (start : Nat) : a.extractLsb' start 8 = BitVec.ofNat 8 (a.toNat / 2 ^ start) := by
  rw [BitVec.extractLsb', Nat.shiftRight_eq_div_pow]

/-- A word is its four byte lanes side by side. -/
theorem lanes_append (a : Word) :
    a.extractLsb' 24 8 ++ a.extractLsb' 16 8 ++ a.extractLsb' 8 8 ++ a.extractLsb' 0 8 = a := by
  rw [BitVec.extractLsb'_append_extractLsb'_eq_extractLsb' (show 24 = 16 + 8 from rfl),
    BitVec.extractLsb'_append_extractLsb'_eq_extractLsb' (show 16 = 8 + 8 from rfl),
    BitVec.extractLsb'_append_extractLsb'_eq_extractLsb' (show 8 = 0 + 8 from rfl)]
  exact BitVec.extractLsb'_eq_self

/-- The two parts of a concatenation are determined by it. -/
theorem append_inj {v w : Nat} {x x' : BitVec v} {y y' : BitVec w} (h : x ++ y = x' ++ y') : x = x' ∧ y = y' := by
  constructor
  · simpa only [BitVec.extractLsb'_append_eq_left] using congrArg (BitVec.extractLsb' w v) h
  · simpa only [BitVec.extractLsb'_append_eq_right] using congrArg (BitVec.extractLsb' 0 w) h

/-- Settles O32: the four lookups stand side by side. -/
theorem substitutionByLanes : Obligations.SubstitutionByLanes := by
  intro a
  simp only [sbox, toNat_concat, lane_eq_ofNat, pow_zero, Nat.div_one]
  omega

/-- S works lane by lane (R132), and the table of each lane is injective. -/
theorem sbox_injective : Function.Injective sbox := by
  intro a b h
  obtain ⟨h, lane0⟩ := append_inj h
  obtain ⟨h, lane1⟩ := append_inj h
  obtain ⟨lane3, lane2⟩ := append_inj h
  rw [← lanes_append a, ← lanes_append b, s0rom_injective lane3, s1rom_injective lane2, s0rom_injective lane1,
    s1rom_injective lane0]

/-- Settles O33: on a finite set an injection is a bijection. -/
theorem substitutionIsAPermutation : Obligations.SubstitutionIsAPermutation :=
  ⟨s0rom_injective.bijective_of_finite, s1rom_injective.bijective_of_finite, sbox_injective.bijective_of_finite⟩

end Sys2Proof.Machine

/-! The statements about the LFSR engine (spec/42_lfsr.md): the feedback as a sum over the integers, SHIFT, and that the
replacement of 0 never fires from nonzero cells. -/

namespace Sys2Proof.Machine

/-! ## The feedback -/

theorem cell_toNat_eq_zero {a : Cell} : a.toNat = 0 ↔ a = 0 := BitVec.toNat_inj (y := 0)

/-- The rotator gives the representative of the integer product (R113). -/
theorem mul31_toNat_eq_rep (s : Cell) {k : Nat} (hk : k < 31) : (mul31 s k).toNat = rep (2 ^ k * s.toNat) := by
  have hzero : (mul31 s k).toNat = 0 ↔ 2 ^ k * s.toNat = 0 := by
    rw [cell_toNat_eq_zero, mul31_eq_zero hk, Nat.mul_eq_zero, cell_toNat_eq_zero, or_iff_right (Nat.two_pow_pos k).ne']
  calc (mul31 s k).toNat
      = rep (mul31 s k).toNat := (rep_of_le (cell_toNat_le _)).symm
    _ = rep (2 ^ k * s.toNat) := rep_congr hzero (mul31_congr s hk)

/-- The adder takes representatives of two integers to the representative of their sum (R111 (5)). -/
theorem addMod31_toNat_of_rep {a b : Cell} {m n : Nat} (ha : a.toNat = rep m) (hb : b.toNat = rep n) :
    (addMod31 a b).toNat = rep (m + n) := by
  rw [addMod31_toNat_eq_rep, ha, hb, rep_rep_add, rep_add_rep]

/-- The feedback as one sum over the integers (R141), term by term in the order of R140. -/
theorem feedback_toNat (l : Lfsr) :
    (feedback l).toNat =
      rep (2 ^ 15 * l.s15.toNat + 2 ^ 17 * l.s13.toNat + 2 ^ 21 * l.s10.toNat + 2 ^ 20 * l.s4.toNat
        + (1 + 2 ^ 8) * l.s0.toNat) := by
  have h0 : (addMod31 l.s0 (mul31 l.s0 8)).toNat = rep ((1 + 2 ^ 8) * l.s0.toNat) := by
    rw [Nat.add_mul, Nat.one_mul]
    exact addMod31_toNat_of_rep (rep_of_le (cell_toNat_le _)).symm (mul31_toNat_eq_rep l.s0 (by decide))
  have h4 := mul31_toNat_eq_rep l.s4 (k := 20) (by decide)
  have h10 := mul31_toNat_eq_rep l.s10 (k := 21) (by decide)
  have h13 := mul31_toNat_eq_rep l.s13 (k := 17) (by decide)
  have h15 := mul31_toNat_eq_rep l.s15 (k := 15) (by decide)
  exact addMod31_toNat_of_rep
    (addMod31_toNat_of_rep (addMod31_toNat_of_rep (addMod31_toNat_of_rep h15 h13) h10) h4) h0

/-- One nonzero cell among the five is enough; S[0] is one of them. -/
theorem feedback_ne_zero {l : Lfsr} (h : cellsNonzero l) : feedback l ≠ 0 := fun hv =>
  h 0 (feedback_eq_zero.1 hv).1

/-- Settles O34, from the feedback as one sum over the integers. -/
theorem feedbackIsTheWeightedSum : Obligations.FeedbackIsTheWeightedSum := by
  intro l
  have hsum := feedback_toNat l
  refine ⟨hsum, by rw [hsum, rep_mod], feedback_eq_zero, fun h => ⟨?positive, cell_toNat_le _⟩⟩
  case positive => exact Nat.pos_of_ne_zero (mt cell_toNat_eq_zero.1 (feedback_ne_zero h))

/-! ## SHIFT and the two update modes -/

theorem lfsrShift_get_castSucc (l : Lfsr) (y : Cell) (i : Fin 15) :
    (lfsrShift l y).get i.castSucc = l.get i.succ := by
  rw [lfsrShift_get]
  exact dif_pos i.isLt

theorem lfsrShift_get_newest (l : Lfsr) (y : Cell) : (lfsrShift l y).get 15 = nonzeroCell y := rfl

/-- Settles O35: the replacement of 0 is what keeps the newest cell nonzero. -/
theorem shiftMovesEveryCell : Obligations.ShiftMovesEveryCell := fun l y =>
  ⟨lfsrShift_get_castSucc l y, lfsrShift_get_newest l y, nonzeroCell_ne_zero y⟩

/-- Settles O36: the feedback of nonzero cells is nonzero, and so is its sum with any u (R143). -/
theorem zeroReplacementNeverFires : Obligations.ZeroReplacementNeverFires := by
  intro l u h
  have hv : feedback l ≠ 0 := feedback_ne_zero h
  have hvu : addMod31 (feedback l) u ≠ 0 := fun hs => hv (addMod31_eq_zero.1 hs).1
  exact ⟨(lfsrShift_get_newest l _).trans (nonzeroCell_of_ne_zero hv),
    (lfsrShift_get_newest l _).trans (nonzeroCell_of_ne_zero hvu), lfsrWork_cellsNonzero h, lfsrInit_cellsNonzero h u⟩

end Sys2Proof.Machine

/-! The statements about the bit reorganization and F (spec/43_br_f.md): each half as a quotient or a remainder, and the
words that are spliced of two halves. -/

namespace Sys2Proof.Machine

/-! ## The words of BR -/

/-- A field that reaches up to the top bit is a quotient. -/
theorem topField_toNat {w k n : Nat} (h : w = k + n) (x : BitVec w) : (x.extractLsb' k n).toNat = x.toNat / 2 ^ k := by
  have hlt : x.toNat / 2 ^ k < 2 ^ n := Nat.div_lt_of_lt_mul (by rw [← Nat.pow_add, ← h]; exact x.isLt)
  rw [BitVec.extractLsb'_toNat, Nat.shiftRight_eq_div_pow, Nat.mod_eq_of_lt hlt]

theorem cellHigh_toNat (s : Cell) : (cellHigh s).toNat = s.toNat / 2 ^ 15 := topField_toNat (by rfl) s

theorem cellLow_toNat (s : Cell) : (cellLow s).toNat = s.toNat % 2 ^ 16 := by
  rw [cellLow, BitVec.extractLsb'_toNat, Nat.shiftRight_zero]

/-- Settles O37: a word of BR is one half above another. -/
theorem bitReorganizationSplicesHalves : Obligations.BitReorganizationSplicesHalves := by
  intro l
  simp only [bitReorg, toNat_concat, cellHigh_toNat, cellLow_toNat, and_self]

/-! ## F -/

theorem low16_toNat (x : Word) : (low16 x).toNat = x.toNat % 2 ^ 16 := by
  rw [low16, BitVec.extractLsb'_toNat, Nat.shiftRight_zero]

theorem high16_toNat (x : Word) : (high16 x).toNat = x.toNat / 2 ^ 16 := topField_toNat (by rfl) x

theorem fWord_toNat (x0 r1 r2 : Word) : (fWord x0 r1 r2).toNat = ((x0 ^^^ r1).toNat + r2.toNat) % 2 ^ 32 :=
  BitVec.toNat_add _ _

theorem fW1_toNat (x1 r1 : Word) : (fW1 x1 r1).toNat = (r1.toNat + x1.toNat) % 2 ^ 32 :=
  BitVec.toNat_add _ _

/-- A1 as a number (R163). -/
theorem fA1_eq_ofNat (w1 w2 : Word) :
    fA1 w1 w2 = BitVec.ofNat 32 (w1.toNat % 2 ^ 16 * 2 ^ 16 + w2.toNat / 2 ^ 16) := by
  rw [← low16_toNat, ← high16_toNat, ← toNat_concat, BitVec.ofNat_toNat, BitVec.setWidth_eq, fA1]

/-- A2 is A1 with the parts of W1 and W2 exchanged (R163). -/
theorem fA2_eq_fA1_swap (w1 w2 : Word) : fA2 w1 w2 = fA1 w2 w1 := rfl

@[simp] theorem fStep_w (x0 x1 x2 r1 r2 : Word) : (fStep x0 x1 x2 r1 r2).w = fWord x0 r1 r2 := rfl

@[simp] theorem fStep_r1 (x0 x1 x2 r1 r2 : Word) :
    (fStep x0 x1 x2 r1 r2).r1 = sbox (l1 (fA1 (fW1 x1 r1) (fW2 x2 r2))) := rfl

@[simp] theorem fStep_r2 (x0 x1 x2 r1 r2 : Word) :
    (fStep x0 x1 x2 r1 r2).r2 = sbox (l2 (fA2 (fW1 x1 r1) (fW2 x2 r2))) := rfl

/-- Settles O38: the output by the wrapping addition, the new registers by A1 and A2 as numbers. -/
theorem fOutputAndRegisterUpdate : Obligations.FOutputAndRegisterUpdate := by
  intro x0 x1 x2 r1 r2 w1 w2
  have hw1 : (fW1 x1 r1).toNat = w1 := fW1_toNat x1 r1
  have hw2 : (fW2 x2 r2).toNat = w2 := rfl
  refine ⟨fWord_toNat x0 r1 r2, ?newR1, ?newR2⟩
  case newR1 => rw [fStep_r1, fA1_eq_ofNat, hw1, hw2]
  case newR2 => rw [fStep_r2, fA2_eq_fA1_swap, fA1_eq_ofNat, hw1, hw2]

end Sys2Proof.Machine

/-! The statements about the commands (spec/44_commands.md): what NOP, LOAD, INITR, INITF and GEN leave in every phase,
the lifecycle table, and the sequences of commands that NEW and a host in READY present. -/

namespace Sys2Proof.Machine

/-- Settles O11. -/
theorem nopChangesNothing : Obligations.NopChangesNothing := fun _ => rfl

/-! ## The D tables and the cells of LOAD -/

/-- D_ENC as the list of R183. -/
theorem drom_encrypt_toNat (i : Fin 16) :
    (drom .encrypt i).toNat =
      [0x64, 0x43, 0x7B, 0x2A, 0x11, 0x05, 0x51, 0x42, 0x1A, 0x31, 0x18, 0x66, 0x14, 0x2E, 0x01, 0x5C].getD i.val 0 := by
  revert i
  decide

/-- MODE changes D[0] and D[2] only: m1 is added to the one, m0 taken from the other (R183). -/
theorem drom_toNat_of_mode (m : Mode) (i : Fin 16) :
    (drom m i).toNat =
      if i = 0 then 0x64 + (modeBits m).toNat / 2
      else if i = 2 then 0x7B - (modeBits m).toNat % 2
      else (drom .encrypt i).toNat := by
  cases m <;> revert i <;> decide

/-- Settles O14. -/
theorem dTablesOfTheModes : Obligations.DTablesOfTheModes := fun m i =>
  ⟨drom_encrypt_toNat i, drom_toNat_of_mode m i, drom_bounds m i⟩

section LoadTable

variable (m : Mode) (k : KeyBus) (v : IvBus) {i : Fin 16}

/-- A loaded cell as a number (R184). -/
theorem loadCell_toNat (i : Fin 16) :
    (loadCell m k v i).toNat =
      (keyByte k i.val).toNat * 2 ^ 23 + (drom m i).toNat * 2 ^ 16 + (loadByte3 k v i).toNat * 2 ^ 8
        + (loadByte4 k v i).toNat := packCell_toNat _ _ _ _

theorem loadByte3_of_le_six (h : i.val ≤ 6) : loadByte3 k v i = keyByte k (16 + i.val) := if_pos h

theorem loadByte4_of_le_six (h : i.val ≤ 6) : loadByte4 k v i = keyByte k (24 + i.val) := if_pos h

theorem loadByte3_of_seven_le (h7 : 7 ≤ i.val) (h14 : i.val ≤ 14) : loadByte3 k v i = ivByte v (i.val - 7) :=
  (if_neg (by omega)).trans (if_pos h14)

theorem loadByte4_of_seven_le (h7 : 7 ≤ i.val) (h14 : i.val ≤ 14) : loadByte4 k v i = ivByte v (i.val + 1) :=
  (if_neg (by omega)).trans (if_pos h14)

theorem loadByte3_newest : loadByte3 k v 15 = keyByte k 23 := rfl

theorem loadByte4_newest : loadByte4 k v 15 = keyByte k 31 := rfl

/-- The D constant keeps a loaded cell away from 0 and below the top of the range (R185). -/
theorem loadCell_bounds (i : Fin 16) :
    0x00010000 ≤ (loadCell m k v i).toNat ∧ (loadCell m k v i).toNat ≤ 0x7FFBFFFF := by
  obtain ⟨hlow, hhigh⟩ := drom_bounds m i
  have h1 := (keyByte k i.val).isLt
  have h3 := (loadByte3 k v i).isLt
  have h4 := (loadByte4 k v i).isLt
  rw [loadCell_toNat]
  omega

end LoadTable

/-! ## LOAD -/

/-- The state a LOAD leaves. -/
def afterLoad (m : Mode) (k : KeyBus) (v : IvBus) (s : State) : State :=
  { s with lfsr := loadCells m k v, r1 := 0, r2 := 0, phase := .init, rnd := 0, zreg := 0, zv := false }

/-- LOAD is legal in every phase (R182). -/
theorem exec_load (m : Mode) (k : KeyBus) (v : IvBus) (s : State) :
    exec (.load m k v) s = .next (afterLoad m k v s) := rfl

@[simp] theorem afterLoad_lfsr (m : Mode) (k : KeyBus) (v : IvBus) (s : State) :
    (afterLoad m k v s).lfsr = loadCells m k v := rfl

/-- The state that a LOAD is known to have left. -/
theorem eq_afterLoad {m : Mode} {k : KeyBus} {v : IvBus} {s t : State} (h : exec (.load m k v) s = .next t) :
    t = afterLoad m k v s := by
  cases h
  rfl

/-- LOAD leaves nothing of the old cipher. -/
theorem afterLoad_eq_of_history {s s' : State} (he : s.err = s'.err) (hc : s.ecode = s'.ecode)
    (hi : s.inputs = s'.inputs) (m : Mode) (k : KeyBus) (v : IvBus) : afterLoad m k v s = afterLoad m k v s' := by
  simp only [afterLoad, he, hc, hi]

theorem afterLoad_afterLoad (m : Mode) (k : KeyBus) (v : IvBus) (s : State) :
    afterLoad m k v (afterLoad m k v s) = afterLoad m k v s := rfl

/-- Settles O12, by the rows of the table of R184. -/
theorem loadFillsTheCells : Obligations.LoadFillsTheCells := by
  intro s m k v
  refine ⟨afterLoad m k v s, exec_load m k v s, fun i h6 => ?oldest, fun i h7 h14 => ?middle, ?newest,
    rfl, rfl, rfl, rfl, rfl, rfl, rfl, rfl, rfl⟩
  case oldest =>
    rw [afterLoad_lfsr, loadCells_get, loadCell_toNat, loadByte3_of_le_six k v h6, loadByte4_of_le_six k v h6]
  case middle =>
    rw [afterLoad_lfsr, loadCells_get, loadCell_toNat, loadByte3_of_seven_le k v h7 h14,
      loadByte4_of_seven_le k v h7 h14]
  case newest =>
    rw [afterLoad_lfsr, loadCells_get, loadCell_toNat, loadByte3_newest, loadByte4_newest]
    rfl

/-- The cells of the all-zero key and IV hold their D constant alone (R185). -/
theorem loadCell_zero : ∀ i : Fin 16, loadCell .encrypt 0 0 i = (drom .encrypt i).setWidth 31 <<< 16 := by
  decide

/-- The cells of the all-0xFF key and IV have every bit set around their D constant (R185). -/
theorem loadCell_allOnes : ∀ i : Fin 16,
    loadCell .encrypt (BitVec.allOnes 256) (BitVec.allOnes 128) i =
      0x7F80FFFF ||| ((drom .encrypt i).setWidth 31 <<< 16) := by
  decide

/-- Settles O15. -/
theorem loadedCellBounds : Obligations.LoadedCellBounds := by
  intro s
  refine ⟨fun m k v => ⟨_, exec_load m k v s, fun i => ?bounds⟩, ⟨_, exec_load _ _ _ s, fun i => ?zero⟩,
    ⟨_, exec_load _ _ _ s, fun i => ?ones, ?largest, fun i => ?most⟩⟩
  case bounds =>
    rw [afterLoad_lfsr, loadCells_get]
    exact loadCell_bounds m k v i
  case zero =>
    rw [afterLoad_lfsr, loadCells_get]
    exact loadCell_zero i
  case ones =>
    rw [afterLoad_lfsr, loadCells_get]
    exact loadCell_allOnes i
  case largest =>
    rw [afterLoad_lfsr, loadCells_get, loadCell_allOnes]
    rfl
  case most =>
    rw [afterLoad_lfsr, loadCells_get]
    exact (loadCell_bounds _ _ _ i).2

/-- Settles O17. -/
theorem loadStartsAFreshCipher : Obligations.LoadStartsAFreshCipher := by
  refine ⟨fun s s' m k v he hc hi => ?_, fun s t m k v h => ?_⟩
  · rw [exec_load, exec_load, afterLoad_eq_of_history he hc hi]
  · have ht : t = afterLoad m k v s := eq_afterLoad h
    rw [exec_load, ht, afterLoad_afterLoad]

/-! ## LOAD places every key and IV byte -/

/-- A bus is determined by its bytes, which are numbered from the top (R52). -/
theorem bus_ext {n : Nat} {x y : BitVec (8 * n)}
    (h : ∀ j < n, x.extractLsb' (8 * (n - 1) - 8 * j) 8 = y.extractLsb' (8 * (n - 1) - 8 * j) 8) : x = y := by
  apply BitVec.eq_of_getLsbD_eq
  intro i hi
  have hbyte := congrArg (fun b : Byte => b.getLsbD (i % 8)) (h (n - 1 - i / 8) (by omega))
  have hbit : 8 * (n - 1) - 8 * (n - 1 - i / 8) + i % 8 = i := by omega
  have hlt : i % 8 < 8 := Nat.mod_lt _ (by decide)
  simpa only [BitVec.getLsbD_extractLsb', hlt, hbit, decide_true, Bool.true_and] using hbyte

theorem key_ext {k k' : KeyBus} (h : ∀ j < 32, keyByte k j = keyByte k' j) : k = k' := bus_ext (n := 32) h

theorem iv_ext {v v' : IvBus} (h : ∀ j < 16, ivByte v j = ivByte v' j) : v = v' := bus_ext (n := 16) h

section SameCells

variable {m : Mode} {k k' : KeyBus} {v v' : IvBus} (h : loadCells m k v = loadCells m k' v')
include h

theorem loadCell_of_cells (i : Fin 16) : loadCell m k v i = loadCell m k' v' i := by
  rw [← loadCells_get, h, loadCells_get]

theorem keyByte_of_cells_low (i : Fin 16) : keyByte k i.val = keyByte k' i.val := by
  obtain ⟨h1, -, -, -⟩ := packCell_inj (loadCell_of_cells h i)
  exact h1

theorem loadByte3_of_cells (i : Fin 16) : loadByte3 k v i = loadByte3 k' v' i := by
  obtain ⟨-, -, h3, -⟩ := packCell_inj (loadCell_of_cells h i)
  exact h3

theorem loadByte4_of_cells (i : Fin 16) : loadByte4 k v i = loadByte4 k' v' i := by
  obtain ⟨-, -, -, h4⟩ := packCell_inj (loadCell_of_cells h i)
  exact h4

/-- Equal cells hold equal key bytes; the cases are the places that R184 gives them. -/
theorem keyByte_of_cells (j : Nat) (hj : j < 32) : keyByte k j = keyByte k' j := by
  obtain h15 | ⟨i, h6, rfl⟩ | rfl | ⟨i, h6, rfl⟩ | rfl :
      j ≤ 15 ∨ (∃ i : Fin 16, i.val ≤ 6 ∧ j = 16 + i.val) ∨ j = 23 ∨
        (∃ i : Fin 16, i.val ≤ 6 ∧ j = 24 + i.val) ∨ j = 31 := by
    revert j
    decide
  · exact keyByte_of_cells_low h ⟨j, by omega⟩
  · rw [← loadByte3_of_le_six k v h6, loadByte3_of_cells h, loadByte3_of_le_six k' v' h6]
  · exact loadByte3_of_cells h 15
  · rw [← loadByte4_of_le_six k v h6, loadByte4_of_cells h, loadByte4_of_le_six k' v' h6]
  · exact loadByte4_of_cells h 15

/-- Equal cells hold equal IV bytes: the first eight stand in byte3, the others in byte4 (R184). -/
theorem ivByte_of_cells (j : Nat) (hj : j < 16) : ivByte v j = ivByte v' j := by
  obtain ⟨i, h7, h14, rfl⟩ | ⟨i, h7, h14, rfl⟩ :
      (∃ i : Fin 16, 7 ≤ i.val ∧ i.val ≤ 14 ∧ j = i.val - 7) ∨
        (∃ i : Fin 16, 7 ≤ i.val ∧ i.val ≤ 14 ∧ j = i.val + 1) := by
    revert j
    decide
  · rw [← loadByte3_of_seven_le k v h7 h14, loadByte3_of_cells h, loadByte3_of_seven_le k' v' h7 h14]
  · rw [← loadByte4_of_seven_le k v h7 h14, loadByte4_of_cells h, loadByte4_of_seven_le k' v' h7 h14]

end SameCells

/-- Settles O16, byte by byte. -/
theorem loadDropsNoKeyOrIvBit : Obligations.LoadDropsNoKeyOrIvBit := by
  intro s s' t t' m k k' v v' ht ht' hcells
  rw [eq_afterLoad ht, eq_afterLoad ht', afterLoad_lfsr, afterLoad_lfsr] at hcells
  exact ⟨key_ext (keyByte_of_cells hcells), iv_ext (ivByte_of_cells hcells)⟩

/-! ## INITR, INITF and GEN -/

/-- The state a legal INITR leaves. -/
def afterInitr (s : State) : State := { initUpdate s with rnd := nextRnd s.rnd }

/-- The state a legal INITF leaves. -/
def afterInitf (s : State) : State := { workUpdate s with phase := .ready }

section Legality

variable {s : State}

theorem exec_initr (hp : s.phase = .init) (hr : s.rnd.val < 48) : exec .initr s = .next (afterInitr s) :=
  execInitr_of_legal ((initrLegal_iff s).2 ⟨hp, hr⟩)

theorem exec_initr_fault (h : ¬ (s.phase = .init ∧ s.rnd.val < 48)) :
    exec .initr s = .next (cmdFault .initrPhase s) :=
  execInitr_of_illegal fun hl => h ((initrLegal_iff s).1 hl)

theorem exec_initf (hp : s.phase = .init) (hr : s.rnd.val = 48) : exec .initf s = .next (afterInitf s) :=
  execInitf_of_legal ((initfLegal_iff s).2 ⟨hp, Fin.ext hr⟩)

theorem exec_initf_fault (h : ¬ (s.phase = .init ∧ s.rnd.val = 48)) :
    exec .initf s = .next (cmdFault .initfPhase s) :=
  execInitf_of_illegal fun hl => h (((initfLegal_iff s).1 hl).imp_right (congrArg Fin.val))

theorem exec_gen (hp : s.phase = .ready) : exec .gen s = .next (afterGen s) :=
  execGen_of_legal ((genLegal_iff s).2 hp)

theorem exec_gen_fault (h : s.phase ≠ .ready) : exec .gen s = .next (cmdFault .genPhase s) :=
  execGen_of_illegal fun hl => h ((genLegal_iff s).1 hl)

/-- In another phase than INIT both initialization commands are faults. -/
theorem exec_init_commands_fault (h : s.phase ≠ .init) :
    exec .initr s = .next (cmdFault .initrPhase s) ∧ exec .initf s = .next (cmdFault .initfPhase s) :=
  ⟨exec_initr_fault fun hi => h hi.1, exec_initf_fault fun hi => h hi.1⟩

end Legality

/-- The input u = W >> 1 of a round as a number (R186). -/
theorem top31_eq_ofNat (w : Word) : w.extractLsb' 1 31 = BitVec.ofNat 31 (w.toNat / 2) := by
  rw [BitVec.extractLsb', Nat.shiftRight_eq_div_pow, Nat.pow_one]

/-- Settles O18. -/
theorem initrPerformsOneRound : Obligations.InitrPerformsOneRound := by
  refine fun s => ⟨fun hp hr => ?round, exec_initr_fault⟩
  case round =>
    intro br f y
    have hy : addMod31 (feedback s.lfsr) ((fOf s).w.extractLsb' 1 31) = y := by
      rw [top31_eq_ofNat]
      rfl
    have hnewest : (afterInitr s).lfsr.get 15 = nonzeroCell y :=
      (lfsrShift_get_newest s.lfsr _).trans (congrArg nonzeroCell hy)
    exact ⟨afterInitr s, exec_initr hp hr, lfsrShift_get_castSucc s.lfsr _, hnewest, rfl, rfl, nextRnd_val hr,
      rfl, rfl, rfl, rfl, rfl, rfl⟩

/-- Settles O19. -/
theorem initfPerformsTheDiscardedStep : Obligations.InitfPerformsTheDiscardedStep := fun s =>
  ⟨fun hp hr => ⟨afterInitf s, exec_initf hp hr, lfsrShift_get_castSucc s.lfsr _, lfsrShift_get_newest s.lfsr _,
    rfl, rfl, rfl, rfl, rfl, rfl, rfl, rfl, rfl⟩, exec_initf_fault⟩

/-- Settles O20. -/
theorem genEmitsOneKeystreamWord : Obligations.GenEmitsOneKeystreamWord := fun s =>
  ⟨fun hp => ⟨afterGen s, exec_gen hp, rfl, rfl, rfl, lfsrShift_get_castSucc s.lfsr _, lfsrShift_get_newest s.lfsr _,
    rfl, rfl, rfl, rfl, rfl, rfl, rfl⟩, exec_gen_fault⟩

/-! ## The lifecycle -/

/-- Settles O23, one lifecycle state after the other. -/
theorem lifecycleTable : Obligations.LifecycleTable := by
  intro s
  refine ⟨rfl, fun m k v => ⟨_, exec_load m k v s, rfl, rfl, rfl⟩, fun hp => ?idle, fun hp hr => ?rounds,
    fun hp hr => ?lastRound, fun hp => ?ready, fun b hrst hop => ?reserved⟩
  case idle =>
    obtain ⟨hinitr, hinitf⟩ := exec_init_commands_fault (s := s) (by simp [hp])
    exact ⟨hinitr, hinitf, exec_gen_fault (by simp [hp])⟩
  case rounds =>
    exact ⟨⟨_, exec_initr hp hr, hp, nextRnd_val hr, rfl⟩, exec_initf_fault fun h => hr.ne h.2,
      exec_gen_fault (by simp [hp])⟩
  case lastRound =>
    exact ⟨exec_initr_fault fun h => h.2.ne hr, ⟨_, exec_initf hp hr, rfl, rfl, rfl⟩, exec_gen_fault (by simp [hp])⟩
  case ready =>
    obtain ⟨hinitr, hinitf⟩ := exec_init_commands_fault (s := s) (by simp [hp])
    exact ⟨hinitr, hinitf, _, exec_gen hp, hp, rfl, rfl, rfl⟩
  case reserved => exact reservedWordRecordsFaultOne (present b s) b s.inputs rfl hrst hop

/-! ## Sequences of inputs -/

/-- The core takes the inputs `bs`, one step each, from the first state to the second. -/
inductive Takes : List HostInput → State → State → Prop where
  | nil {s : State} : Takes [] s s
  | cons {b : HostInput} {bs : List HostInput} {s t u : State} (hstep : step (present b s) = .next t)
      (hrest : Takes bs t u) : Takes (b :: bs) s u

/-- A step takes its input and leaves the others, and they have no part in what it does. -/
theorem step_presentAll_cons {b : HostInput} {s t : State} (h : step (present b s) = .next t) :
    t.inputs = s.inputs ∧ ∀ bs, step (presentAll (b :: bs) s) = .next (presentAll bs t) := by
  cases hr : b.rst with
  | true =>
    cases (step_of_reset (s := present b s) rfl hr).symm.trans h
    exact ⟨rfl, fun bs => step_of_reset rfl hr⟩
  | false =>
    cases hd : decode b with
    | cmd i =>
      rw [step_present_cmd s hr hd] at h
      refine ⟨exec_inputs h, fun bs => ?_⟩
      rw [presentAll_cons, step_present_cmd _ hr hd, presentAll, exec_with_inputs h, presentAll, exec_inputs h]
    | reserved op =>
      cases (step_of_reserved (s := present b s) rfl hr hd).symm.trans h
      exact ⟨rfl, fun bs => step_of_reserved (s := presentAll (b :: bs) s) rfl hr hd⟩

/-- A run of as many steps as there are inputs takes them all. -/
theorem Takes.run {bs : List HostInput} {s t : State} (h : Takes bs s t) :
    Host.Core.run Sys2Proof.core bs.length (presentAll bs s) = .next t := by
  induction h with
  | nil => exact run_zero _
  | @cons b bs s t u hstep hrest ih =>
    obtain ⟨-, hstep_all⟩ := step_presentAll_cons hstep
    exact (run_succ bs.length (hstep_all bs)).trans ih

theorem Takes.inputs_eq {bs : List HostInput} {s t : State} (h : Takes bs s t) : t.inputs = s.inputs := by
  induction h with
  | nil => rfl
  | cons hstep hrest ih =>
    obtain ⟨hinputs, -⟩ := step_presentAll_cons hstep
    exact ih.trans hinputs

theorem Takes.append {bs cs : List HostInput} {s t u : State} (h : Takes bs s t) (h' : Takes cs t u) :
    Takes (bs ++ cs) s u := by
  induction h with
  | nil => exact h'
  | cons hstep hrest ih => exact .cons hstep (ih h')

/-- An encoded command is taken by one exec. -/
theorem Takes.cons_encode {i : Instr} {bs : List HostInput} {s t u : State} (h : exec i s = .next t)
    (h' : Takes bs t u) : Takes (encode i :: bs) s u :=
  .cons ((step_present_cmd s (encode_rst i) (decode_encode i)).trans h) h'

/-- Two cores with the same cipher take the same inputs to the same cipher. -/
theorem Takes.of_sameCipher {bs : List HostInput} {s s' t : State} (h : Takes bs s s') (hst : sameCipher s t) :
    ∃ t', Takes bs t t' ∧ sameCipher s' t' := by
  induction h generalizing t with
  | nil => exact ⟨t, .nil, hst⟩
  | @cons b bs s u s' hstep hrest ih =>
    obtain ⟨u', t₁, hu', ht₁, hut⟩ := faultHistoryNeverReachesTheCipher s t b hst
    cases hu'.symm.trans hstep
    obtain ⟨t', ht', hsame⟩ := ih hut
    exact ⟨t', .cons ht₁ ht', hsame⟩

/-! ## NEW -/

/-- The states agree on the output and the fault registers. -/
def sameOutputs (s t : State) : Prop := t.zv = s.zv ∧ t.zreg = s.zreg ∧ t.err = s.err ∧ t.ecode = s.ecode

/-- The rounds that are left in INIT, without a fault. -/
theorem takes_initr_rounds (n : Nat) {s : State} (hp : s.phase = .init) (hr : s.rnd.val + n = 48)
    (hcells : cellsNonzero s.lfsr) :
    ∃ t, Takes (List.replicate n (encode .initr)) s t ∧ t.phase = .init ∧ t.rnd.val = 48 ∧ cellsNonzero t.lfsr ∧
      sameOutputs s t := by
  induction n generalizing s with
  | zero => exact ⟨s, .nil, hp, hr, hcells, rfl, rfl, rfl, rfl⟩
  | succ n ih =>
    have hlt : s.rnd.val < 48 := by omega
    have hrnd : (afterInitr s).rnd.val + n = 48 := by
      rw [afterInitr, nextRnd_val hlt]
      omega
    obtain ⟨t, ht, hfacts⟩ := ih (s := afterInitr s) hp hrnd (lfsrInit_cellsNonzero hcells _)
    exact ⟨t, .cons_encode (exec_initr hp hlt) ht, hfacts⟩

/-- INIT after a LOAD: 48 rounds and the discarded step. -/
theorem takes_initSeq {s : State} (hp : s.phase = .init) (hr : s.rnd.val = 0) (hcells : cellsNonzero s.lfsr) :
    ∃ t, Takes initSeq s t ∧ t.phase = .ready ∧ t.rnd.val = 48 ∧ cellsNonzero t.lfsr ∧ sameOutputs s t := by
  obtain ⟨t, ht, hphase, hrnd, hnz, hout⟩ := takes_initr_rounds 48 hp (by rw [hr]) hcells
  have hlast : Takes [encode .initf] t (afterInitf t) := .cons_encode (exec_initf hphase hrnd) .nil
  exact ⟨afterInitf t, ht.append hlast, rfl, hrnd, lfsrWork_cellsNonzero hnz, hout⟩

/-- Settles O43: after the LOAD the two cores have the same cipher, and INIT keeps it the same. -/
theorem newReachesReady : Obligations.NewReachesReady := by
  intro s s' m k v
  have hloaded : sameCipher (afterLoad m k v s) (afterLoad m k v s') := sameCipher_with_history _ _ _ _
  obtain ⟨t, ht, hphase, hrnd, hcells, hzv, hzreg, herr, hecode⟩ :=
    takes_initSeq (s := afterLoad m k v s) rfl rfl (loadCells_cellsNonzero m k v)
  obtain ⟨t', ht', hsame⟩ := ht.of_sameCipher hloaded
  have hrun : Takes (newSeq m k v) s t := .cons_encode (exec_load m k v s) ht
  have hrun' : Takes (newSeq m k v) s' t' := .cons_encode (exec_load m k v s') ht'
  exact ⟨t, t', hrun.run, hrun'.run, hphase, Fin.ext hrnd, hzv, hzreg, hcells, herr, hecode, hrun.inputs_eq, hsame⟩

/-! ## The keystream in READY -/

theorem sameCipher.refl (s : State) : sameCipher s s := ⟨rfl, rfl, rfl, rfl, rfl, rfl, rfl⟩

theorem sameCipher.symm {s t : State} (h : sameCipher s t) : sameCipher t s := by
  rw [h.eq_with_history]
  exact ⟨rfl, rfl, rfl, rfl, rfl, rfl, rfl⟩

theorem sameCipher.trans {s t u : State} (h : sameCipher s t) (h' : sameCipher t u) : sameCipher s u := by
  rw [h'.eq_with_history, h.eq_with_history]
  exact sameCipher_with_history _ _ _ _

theorem sameCipher.phase_eq {s t : State} (h : sameCipher s t) : t.phase = s.phase := by
  rw [h.eq_with_history]

/-- A GEN reads and writes the cipher alone. -/
theorem sameCipher.afterGen {s t : State} (h : sameCipher s t) :
    sameCipher (Machine.afterGen s) (Machine.afterGen t) := by
  rw [h.eq_with_history]
  exact sameCipher_with_history _ _ _ _

/-- In READY an input that is neither a reset nor a LOAD moves the cipher only if it is a GEN (R194, R266). -/
theorem step_present_of_ready {s : State} {b : HostInput} (hp : s.phase = .ready) (hr : b.rst = false)
    (hload : b.cmd.toNat % 16 ≠ 1) :
    ∃ t, step (present b s) = .next t ∧ sameCipher (if b.cmd.toNat % 16 = 4 then afterGen s else s) t := by
  rw [← opField_toNat] at hload ⊢
  obtain ⟨hinitr, hinitf⟩ := exec_init_commands_fault (s := s) (by simp [hp])
  obtain ⟨i, hd, hop⟩ | ⟨hd, h5⟩ := decode_cases b
  · rw [step_present_cmd s hr hd, hop]
    cases i with
    | nop => exact ⟨s, rfl, .refl s⟩
    | load m k iv => exact absurd (congrArg BitVec.toNat hop) hload
    | initr => exact ⟨_, hinitr, sameCipher_cmdFault _ s⟩
    | initf => exact ⟨_, hinitf, sameCipher_cmdFault _ s⟩
    | gen => exact ⟨_, exec_gen hp, .refl _⟩
  · rw [if_neg (by omega)]
    exact ⟨_, step_of_reserved rfl hr hd, sameCipher_cmdFault _ s⟩

/-- A sequence without a reset and a LOAD does to the cipher in READY what its GENs do to one that agrees with it. -/
theorem takes_of_ready {bs : List HostInput} (hbs : ∀ b ∈ bs, b.rst = false ∧ b.cmd.toNat % 16 ≠ 1) {s u : State}
    (hp : s.phase = .ready) (hus : sameCipher u s) :
    ∃ t, Takes bs s t ∧ sameCipher (afterGens (bs.countP fun b => b.cmd.toNat % 16 == 4) u) t := by
  induction bs generalizing s u with
  | nil => exact ⟨s, .nil, hus⟩
  | cons b bs ih =>
    obtain ⟨⟨hr, hload⟩, hrest⟩ := List.forall_mem_cons.1 hbs
    obtain ⟨s₁, hstep, hsame⟩ := step_present_of_ready hp hr hload
    by_cases hgen : b.cmd.toNat % 16 = 4
    · rw [if_pos hgen] at hsame
      obtain ⟨t, ht, hcipher⟩ := ih hrest (hsame.phase_eq.trans hp) (hus.afterGen.trans hsame)
      rw [List.countP_cons_of_pos (by simpa using hgen)]
      exact ⟨t, .cons hstep ht, hcipher⟩
    · rw [if_neg hgen] at hsame
      obtain ⟨t, ht, hcipher⟩ := ih hrest (hsame.phase_eq.trans hp) (hus.trans hsame)
      rw [List.countP_cons_of_neg (by simpa using hgen)]
      exact ⟨t, .cons hstep ht, hcipher⟩

/-- Settles O45: every input but a GEN leaves the cipher as it is. -/
theorem keystreamIgnoresNopsAndFaults : Obligations.KeystreamIgnoresNopsAndFaults := by
  intro s bs hp hbs
  obtain ⟨t, ht, hcipher⟩ := takes_of_ready hbs hp (.refl s)
  exact ⟨t, _, ht.run, run_gennSeq _ hp, hcipher.symm, ht.inputs_eq⟩

end Sys2Proof.Machine

/-! The statements about the host procedures (spec/45_host_procedures.md): apply_keystream as one XOR of the data with
the bytes of the next words, the slice extractor, generate_mac bit by bit, and the calls that are refused. -/

namespace Sys2Proof.Machine

/-- A host procedure goes on with the answer of the call before it. -/
theorem ok_bind {α β : Type} (a : α) (f : α → Except Refusal β) : (.ok a >>= f) = f a := rfl

/-! ## Byte buffers -/

theorem xorBytes_length {a b : List Byte} (h : a.length ≤ b.length) : (xorBytes a b).length = a.length := by
  rw [xorBytes, List.length_zipWith, min_eq_left h]

theorem xorBytes_getD {a b : List Byte} (h : a.length ≤ b.length) {i : Nat} (hi : i < a.length) :
    (xorBytes a b).getD i 0 = a.getD i 0 ^^^ b.getD i 0 := by
  have hib : i < b.length := hi.trans_le h
  simp [xorBytes, hi, hib]

theorem xorBytes_append {a b ka : List Byte} (h : a.length = ka.length) (kb : List Byte) :
    xorBytes (a ++ b) (ka ++ kb) = xorBytes a ka ++ xorBytes b kb := List.zipWith_append h

/-- Each byte of the data meets the same byte twice (R212). -/
theorem xorBytes_xorBytes {a k : List Byte} (h : a.length ≤ k.length) : xorBytes (xorBytes a k) k = a := by
  have hlen := xorBytes_length h
  refine List.ext_getElem ((xorBytes_length (hlen.trans_le h)).trans hlen) fun i _ hi => ?_
  simp [xorBytes]

/-- The bytes of the words, in the order in which apply_keystream uses them (R53, R210). -/
def keystreamBytes (zs : List Word) : List Byte := zs.flatMap wordBytes

theorem keystreamBytes_cons (z : Word) (zs : List Word) : keystreamBytes (z :: zs) = wordBytes z ++ keystreamBytes zs :=
  List.flatMap_cons

theorem keystreamBytes_append (zs ws : List Word) :
    keystreamBytes (zs ++ ws) = keystreamBytes zs ++ keystreamBytes ws := List.flatMap_append

theorem keystreamBytes_length (zs : List Word) : (keystreamBytes zs).length = 4 * zs.length := by
  induction zs with
  | nil => rfl
  | cons z zs ih =>
    rw [keystreamBytes_cons, List.length_append, ih, List.length_cons, wordBytes]
    simp only [List.length_cons, List.length_nil]
    omega

/-- Byte i is byte i mod 4 of word i div 4, the most significant byte first. -/
theorem keystreamBytes_getD (zs : List Word) (i : Nat) :
    (keystreamBytes zs).getD i 0 = (zs.getD (i / 4) 0).extractLsb' (24 - 8 * (i % 4)) 8 := by
  induction zs generalizing i with
  | nil => simp [keystreamBytes]
  | cons z zs ih =>
    rw [keystreamBytes_cons]
    match i with
    | 0 | 1 | 2 | 3 => rfl
    | i + 4 =>
      rw [Nat.add_div_right i (by decide), Nat.add_mod_right]
      exact ih i

/-! ## The words of consecutive GENs -/

theorem genWords_add (m n : Nat) (s : State) : genWords (m + n) s = genWords m s ++ genWords n (afterGens m s) := by
  induction m generalizing s with
  | zero => rw [Nat.zero_add]; rfl
  | succ m ih => rw [Nat.succ_add, genWords, ih]; rfl

theorem afterGens_add (m n : Nat) (s : State) : afterGens (m + n) s = afterGens n (afterGens m s) := by
  induction m generalizing s with
  | zero => rw [Nat.zero_add]; rfl
  | succ m ih => rw [Nat.succ_add, afterGens, ih]; rfl

theorem sameCipher.workWord_eq {s t : State} (h : sameCipher s t) : workWord s = workWord t := by
  rw [h.eq_with_history]
  rfl

/-- The words are a function of the cipher state (R194). -/
theorem sameCipher.genWords_eq {s t : State} (h : sameCipher s t) (n : Nat) : genWords n s = genWords n t := by
  induction n generalizing s t with
  | zero => rfl
  | succ n ih => rw [genWords, genWords, h.workWord_eq, ih h.afterGen]

/-! ## apply_keystream -/

/-- The bytes that a call on n bytes uses, and those it drops: the bytes of the next ceil(n/4) words. -/
def callKeystream (n : Nat) (s : State) : List Byte := keystreamBytes (genWords ((n + 3) / 4) s)

theorem callKeystream_length (n : Nat) (s : State) : (callKeystream n s).length = 4 * ((n + 3) / 4) := by
  rw [callKeystream, keystreamBytes_length, genWords_length]

theorem le_callKeystream_length (data : List Byte) (s : State) :
    data.length ≤ (callKeystream data.length s).length := by
  rw [callKeystream_length]
  omega

theorem sameCipher.callKeystream_eq {s t : State} (h : sameCipher s t) (n : Nat) :
    callKeystream n s = callKeystream n t := congrArg keystreamBytes (h.genWords_eq _)

/-- In READY the body XORs the data with the bytes of the next ceil(n/4) words. -/
theorem applyWords_of_ready (data : List Byte) {s : State} (hs : s.phase = .ready) :
    applyWords data s = .ok (xorBytes data (callKeystream data.length s), afterGens ((data.length + 3) / 4) s) := by
  match data with
  | [] => rfl
  | [_] | [_, _] | [_, _, _] =>
    simp [applyWords, hostGen_of_ready hs, ok_bind, callKeystream, keystreamBytes, genWords, afterGens]
  | a :: b :: c :: d :: rest =>
    have hwords : ((a :: b :: c :: d :: rest).length + 3) / 4 = (rest.length + 3) / 4 + 1 :=
      Nat.add_div_right (rest.length + 3) (z := 4) (by decide)
    rw [applyWords, hostGen_of_ready hs, callKeystream, hwords]
    simp only [ok_bind, applyWords_of_ready rest (s := afterGen s) hs]
    rfl

theorem applyKeystream_of_ready (data : List Byte) {s : State} (hs : s.phase = .ready) :
    applyKeystream data s = .ok (xorBytes data (callKeystream data.length s), afterGens ((data.length + 3) / 4) s) :=
  (if_pos hs).trans (applyWords_of_ready data hs)

/-- Settles O47: byte i of the data meets byte i of the words. -/
theorem applyKeystreamXorsTheWords : Obligations.ApplyKeystreamXorsTheWords := by
  intro s data hs
  have hle := le_callKeystream_length data s
  refine ⟨_, _, keystreamWords_of_ready _ hs, hostGens_of_ready _ hs, (afterGens_phase _ s).trans hs, _,
    applyKeystream_of_ready data hs, xorBytes_length hle, fun i hi => ?_⟩
  rw [xorBytes_getD hle hi, callKeystream, keystreamBytes_getD]

/-- Settles O48: after the same NEW both cores give the same words. -/
theorem applyKeystreamIsAnInvolution : Obligations.ApplyKeystreamIsAnInvolution := by
  intro s s' m k v data
  obtain ⟨t, t', hrun, hrun', hready, -, -, -, -, -, -, -, hsame⟩ := newReachesReady s s' m k v
  have hready' : t'.phase = .ready := hsame.phase_eq.trans hready
  have hle := le_callKeystream_length data t
  have hlen := xorBytes_length hle
  have hback := applyKeystream_of_ready (xorBytes data (callKeystream data.length t)) hready'
  rw [hlen, ← hsame.callKeystream_eq, xorBytes_xorBytes hle] at hback
  exact ⟨t, t', _, _, _, hrun, hrun', applyKeystream_of_ready data hready, hlen, hback⟩

/-- Settles O49: whole words end where the first call ends. -/
theorem wholeWordCallsConcatenate : Obligations.WholeWordCallsConcatenate := by
  intro s a b hs ha
  have hready : (afterGens ((a.length + 3) / 4) s).phase = .ready := (afterGens_phase _ s).trans hs
  refine ⟨_, _, _, _, applyKeystream_of_ready a hs, applyKeystream_of_ready b hready, ?_⟩
  have hwords : ((a ++ b).length + 3) / 4 = (a.length + 3) / 4 + (b.length + 3) / 4 := by
    rw [List.length_append]
    omega
  have hwhole : a.length = (callKeystream a.length s).length := by
    rw [callKeystream_length]
    omega
  rw [applyKeystream_of_ready _ hs, callKeystream, hwords, genWords_add, keystreamBytes_append, ← callKeystream,
    ← callKeystream, xorBytes_append hwhole, afterGens_add]

/-! ## The bits of a byte buffer -/

/-- The bit of a buffer that msgBit reads is a bit of a byte counted from the top. -/
theorem msgBit_eq_getMsbD (buf : List Byte) (i : Nat) : msgBit buf i = (buf.getD (i / 8) 0).getMsbD (i % 8) := by
  have hlt : i % 8 < 8 := Nat.mod_lt i (by decide)
  simp [msgBit, BitVec.getMsbD, hlt]

theorem msgBit_xorBytes {a b : List Byte} (h : a.length = b.length) {i : Nat} (hi : i < 8 * a.length) :
    msgBit (xorBytes a b) i = (msgBit a i ^^ msgBit b i) := by
  rw [msgBit, xorBytes_getD h.le (Nat.div_lt_of_lt_mul hi), BitVec.getLsbD_xor]
  rfl

theorem packBits_length (bits : List Bool) : (packBits bits).length = (bits.length + 7) / 8 := by
  rw [packBits, List.length_map, List.length_range]

/-- Byte j of the packed bits, of eight consecutive bits, the first on top and 0 past the end. -/
def packedByte (bits : List Bool) (j : Nat) : Byte :=
  BitVec.ofBoolListBE ((List.range 8).map fun b => bits.getD (8 * j + b) false)

theorem packBits_eq_map (bits : List Bool) :
    packBits bits = (List.range ((bits.length + 7) / 8)).map (packedByte bits) := rfl

theorem packBits_getD (bits : List Bool) {j : Nat} (hj : j < (bits.length + 7) / 8) :
    (packBits bits).getD j 0 = packedByte bits j := by
  simp [packBits_eq_map, hj]

theorem packedByte_getMsbD (bits : List Bool) (j : Nat) {b : Nat} (hb : b < 8) :
    (packedByte bits j).getMsbD b = bits.getD (8 * j + b) false :=
  BitVec.getMsbD_ofBoolListBE.trans (by simp [hb])

/-- Packed bits read back, and every bit after them reads 0 (R216). -/
theorem msgBit_packBits (bits : List Bool) (i : Nat) : msgBit (packBits bits) i = bits.getD i false := by
  rw [msgBit_eq_getMsbD]
  by_cases h : i / 8 < (bits.length + 7) / 8
  · rw [packBits_getD bits h, packedByte_getMsbD bits _ (Nat.mod_lt i (by decide)), Nat.div_add_mod]
  · have hpack : (packBits bits).length ≤ i / 8 := (packBits_length bits).trans_le (not_lt.1 h)
    have hbits : bits.length ≤ i := by omega
    rw [List.getD_eq_default _ _ hpack, List.getD_eq_default _ _ hbits]
    exact BitVec.getMsbD_zero

/-! ## Slices of the keystream -/

/-- Bit q of the keystream, 0 past the words; the model's own `keystreamBit` has no value there. -/
def kbit (zw : List Word) (q : Nat) : Bool := (zw.getD (q / 32) 0).getLsbD (31 - q % 32)

theorem keystreamBit_of_lt {zw : List Word} {q : Nat} (h : q < 32 * zw.length) :
    keystreamBit zw q = some (kbit zw q) := by
  have hq : q / 32 < zw.length := Nat.div_lt_of_lt_mul h
  simp [keystreamBit, kbit, hq]

theorem keystreamBit_of_le {zw : List Word} {q : Nat} (h : 32 * zw.length ≤ q) : keystreamBit zw q = none := by
  have hq : zw.length ≤ q / 32 := (Nat.le_div_iff_mul_le (by decide)).2 (by omega)
  simp [keystreamBit, hq]

/-- The n bits from position p on. -/
def sliceBits (zw : List Word) (p n : Nat) : List Bool := (List.range n).map fun i => kbit zw (p + i)

theorem sliceBits_length (zw : List Word) (p n : Nat) : (sliceBits zw p n).length = n := by simp [sliceBits]

theorem sliceBits_getD (zw : List Word) (p : Nat) {n i : Nat} (hi : i < n) :
    (sliceBits zw p n).getD i false = kbit zw (p + i) := by
  simp [sliceBits, hi]

/-- The slice packed into bytes: what Wsl answers within the words. -/
def slice (zw : List Word) (p n : Nat) : List Byte := packBits (sliceBits zw p n)

theorem slice_length (zw : List Word) (p n : Nat) : (slice zw p n).length = (n + 7) / 8 := by
  rw [slice, packBits_length, sliceBits_length]

theorem mapM_keystreamBit_of_le {zw : List Word} {p n : Nat} (h : p + n ≤ 32 * zw.length) :
    (List.range n).mapM (fun i => keystreamBit zw (p + i)) = some (sliceBits zw p n) := by
  induction n with
  | zero => rfl
  | succ n ih =>
    have hlast : keystreamBit zw (p + n) = some (kbit zw (p + n)) := keystreamBit_of_lt (by omega)
    simp [sliceBits, List.range_succ, ih (by omega), hlast]

/-- Within the words Wsl packs the bits of the slice (R216). -/
theorem wsl_of_le {zw : List Word} {p n : Nat} (h : p + n ≤ 32 * zw.length) :
    wsl zw p n = .ok (slice zw p n) := by
  rw [wsl, mapM_keystreamBit_of_le h, slice]

/-- A slice whose last bit is past the words is refused (R217). -/
theorem wsl_of_last_bit_past {zw : List Word} {p m : Nat} (h : 32 * zw.length ≤ p + m) :
    wsl zw p (m + 1) = .error .sliceOutOfRange := by
  have hbits : (List.range (m + 1)).mapM (fun i => keystreamBit zw (p + i)) = none := by
    simp [List.range_succ, keystreamBit_of_le h]
  rw [wsl, hbits]

theorem msgBit_slice (zw : List Word) (p : Nat) {n i : Nat} (hi : i < n) :
    msgBit (slice zw p n) i = kbit zw (p + i) := (msgBit_packBits _ i).trans (sliceBits_getD zw p hi)

theorem msgBit_slice_padding (zw : List Word) (p : Nat) {n i : Nat} (hi : n ≤ i) : msgBit (slice zw p n) i = false :=
  (msgBit_packBits _ i).trans (List.getD_eq_default _ _ ((sliceBits_length zw p n).trans_le hi))

/-- Settles O51: the packed bits read back, and a slice past the words already misses its last bit. -/
theorem sliceExtractsKeystreamBits : Obligations.SliceExtractsKeystreamBits := by
  refine fun zw p n => ⟨fun h => ?within, fun h hn => ?past⟩
  case within =>
    exact ⟨_, wsl_of_le h, slice_length zw p n, fun i hi => msgBit_slice zw p hi,
      fun i hi _ => msgBit_slice_padding zw p hi⟩
  case past =>
    obtain ⟨m, rfl⟩ := Nat.exists_eq_add_one_of_ne_zero hn.ne'
    exact wsl_of_last_bit_past (Nat.lt_succ_iff.1 h)

/-! ## generate_mac -/

/-- The tag before its last slice: Wsl(0, t) and the slices of the first l message bits that are 1 (R214). -/
def messageSum (zw : List Word) (msg : List Byte) (t : Nat) : Nat → List Byte
  | 0 => slice zw 0 t
  | l + 1 => if msgBit msg l then xorBytes (messageSum zw msg t l) (slice zw (t + l) t) else messageSum zw msg t l

theorem messageSum_length (zw : List Word) (msg : List Byte) (t l : Nat) :
    (messageSum zw msg t l).length = (t + 7) / 8 := by
  induction l with
  | zero => exact slice_length zw 0 t
  | succ l ih =>
    rw [messageSum]
    split
    · exact (xorBytes_length (ih.trans (slice_length zw _ t).symm).le).trans ih
    · exact ih

/-- Bit j of the message's part of the tag: the Kbit(t + i + j) of the message bits i < l that are 1. -/
def messageBit (zw : List Word) (msg : List Byte) (t l j : Nat) : Bool :=
  (List.range l).foldl (fun acc i => acc ^^ (msgBit msg i && kbit zw (t + i + j))) false

theorem messageBit_succ (zw : List Word) (msg : List Byte) (t l j : Nat) :
    messageBit zw msg t (l + 1) j = (messageBit zw msg t l j ^^ (msgBit msg l && kbit zw (t + l + j))) := by
  rw [messageBit, List.range_succ, List.foldl_append]
  rfl

theorem msgBit_messageSum (zw : List Word) (msg : List Byte) {t j : Nat} (hj : j < t) (l : Nat) :
    msgBit (messageSum zw msg t l) j = (kbit zw j ^^ messageBit zw msg t l j) := by
  induction l with
  | zero =>
    rw [messageSum, msgBit_slice zw 0 hj, Nat.zero_add]
    exact (Bool.xor_false _).symm
  | succ l ih =>
    have hlen := messageSum_length zw msg t l
    rw [messageSum, messageBit_succ]
    cases hbit : msgBit msg l with
    | false => simpa using ih
    | true =>
      rw [if_pos rfl, msgBit_xorBytes (hlen.trans (slice_length zw _ t).symm) (by omega), ih, msgBit_slice zw _ hj,
        Bool.true_and, Bool.xor_assoc]

/-- Every slice that the loop of the message bits reads is within the words (R217). -/
theorem foldlM_messageSum {zw : List Word} (msg : List Byte) {l t : Nat} (h : l + 2 * t ≤ 32 * zw.length) :
    (List.range l).foldlM
      (fun acc i => if msgBit msg i then do .ok (xorBytes acc (← wsl zw (t + i) t)) else .ok acc) (slice zw 0 t) =
    (.ok (messageSum zw msg t l) : Except Refusal (List Byte)) := by
  induction l with
  | zero => rfl
  | succ l ih =>
    have hslice : wsl zw (t + l) t = .ok (slice zw (t + l) t) := wsl_of_le (by omega)
    rw [List.range_succ, List.foldlM_append, ih (by omega), messageSum]
    cases hbit : msgBit msg l <;> simp [hbit, hslice, ok_bind, pure, Except.pure]

/-- The bytes of the tag that R214 gives from the words. -/
def tagBytes (zw : List Word) (msg : List Byte) (l t : Nat) : List Byte :=
  xorBytes (messageSum zw msg t l) (slice zw (l + t) t)

theorem messageSum_length_eq_slice (zw : List Word) (msg : List Byte) (l t : Nat) :
    (messageSum zw msg t l).length = (slice zw (l + t) t).length :=
  (messageSum_length zw msg t l).trans (slice_length zw (l + t) t).symm

theorem tagBytes_length (zw : List Word) (msg : List Byte) (l t : Nat) :
    (tagBytes zw msg l t).length = (t + 7) / 8 :=
  (xorBytes_length (messageSum_length_eq_slice zw msg l t).le).trans (messageSum_length zw msg t l)

theorem msgBit_tagBytes (zw : List Word) (msg : List Byte) (l : Nat) {t j : Nat} (hj : j < t) :
    msgBit (tagBytes zw msg l t) j = (kbit zw j ^^ kbit zw (l + t + j) ^^ messageBit zw msg t l j) := by
  have hlen := messageSum_length zw msg t l
  rw [tagBytes, msgBit_xorBytes (messageSum_length_eq_slice zw msg l t) (by omega), msgBit_messageSum zw msg hj,
    msgBit_slice zw _ hj, Bool.xor_right_comm]

/-- From enough words every tag is answered (R217). -/
theorem macTag_of_le {zw : List Word} (msg : List Byte) {l t : Nat} (h : l + 2 * t ≤ 32 * zw.length) :
    macTag zw msg l t = .ok (tagBytes zw msg l t) := by
  have hfirst : wsl zw 0 t = .ok (slice zw 0 t) := wsl_of_le (by omega)
  have hlast : wsl zw (l + t) t = .ok (slice zw (l + t) t) := wsl_of_le (by omega)
  rw [macTag, hfirst, ok_bind, foldlM_messageSum msg h, ok_bind, hlast, ok_bind, tagBytes]

/-- The tag lengths of R213, as the check of generate_mac reads them. -/
theorem mem_tagLengths_iff {t : Nat} : t ∈ [32, 64, 128] ↔ ¬ (t ≠ 32 ∧ t ≠ 64 ∧ t ≠ 128) := by
  simp only [List.mem_cons, List.not_mem_nil, or_false]
  omega

/-- A call that meets its contract in READY is answered from the next ceil((l + 2t) / 32) words (R215). -/
theorem generateMac_of_ready {msg : List Byte} {l t : Nat} {s : State} (hs : s.phase = .ready)
    (ht : t ∈ [32, 64, 128]) (hl : l ≤ 8 * msg.length) :
    generateMac msg l t s =
      .ok (tagBytes (genWords (macWordCount l t) s) msg l t, afterGens (macWordCount l t) s) := by
  have hwords : l + 2 * t ≤ 32 * (genWords (macWordCount l t) s).length := by
    rw [genWords_length, macWordCount]
    omega
  rw [generateMac, if_neg (mem_tagLengths_iff.1 ht), if_neg hl.not_gt, if_pos hs, hostGens_of_ready _ hs, ok_bind]
  simp only [macTag_of_le msg hwords, ok_bind]

/-- Settles O52: the tag is read bit by bit from the words the core shows. -/
theorem macTagBits : Obligations.MacTagBits := by
  intro s msg l t hs ht hl
  have hbytes : (t + 7) / 8 = t / 8 := by
    rw [mem_tagLengths_iff] at ht
    omega
  exact ⟨_, _, _, keystreamWords_of_ready _ hs, hostGens_of_ready _ hs, (afterGens_phase _ s).trans hs,
    generateMac_of_ready hs ht hl, (tagBytes_length _ msg l t).trans hbytes, fun j hj => msgBit_tagBytes _ msg l hj⟩

/-! ## Calls that are refused -/

/-- Settles O50, check by check in the model's order. -/
theorem brokenHostContractsAreRefused : Obligations.BrokenHostContractsAreRefused := by
  intro s data msg l t
  refine ⟨fun ht => ?tagBits, fun ht hl => ?messageBits, fun ht hl hs => ?notReady, fun hs => if_neg hs⟩
  case tagBits => exact if_pos (not_not.1 (mt mem_tagLengths_iff.2 ht))
  case messageBits => rw [generateMac, if_neg (mem_tagLengths_iff.1 ht), if_pos hl]
  case notReady => rw [generateMac, if_neg (mem_tagLengths_iff.1 ht), if_neg hl.not_gt, if_neg hs]

end Sys2Proof.Machine

/-! The statements about exceptions (spec/60_exceptions.md): with nothing presented the state is held, every step and
every command answers a next state, and what recording a command fault writes. -/

namespace Sys2Proof.Machine

/-! ## The core never stops -/

/-- Settles O7: there is no input to take. -/
theorem nothingPresentedChangesNothing : Obligations.NothingPresentedChangesNothing := fun _ => step_of_no_input

/-- Every command answers a next state, in every phase. -/
theorem exists_exec_next (i : Instr) (s : State) : ∃ t, exec i s = .next t := by
  obtain ⟨t, ht, -⟩ := exec_cases i s
  exact ⟨t, ht⟩

/-- Settles O8, by the cases of a step and of a command. -/
theorem everyStepAnswersANextState : Obligations.EveryStepAnswersANextState := ⟨exists_step_next, exists_exec_next⟩

/-! ## The fault mechanism -/

/-- The first fault sets ERR and records its cause (R232). -/
theorem cmdFault_of_no_err {s : State} (h : s.err = false) (c : ECode) :
    cmdFault c s = { s with err := true, ecode := c } := by
  simp [cmdFault, h]

/-- A fault recorded while ERR is set changes nothing: ERR is set already, and ECODE keeps the first cause (R232). -/
theorem cmdFault_of_err {s : State} (h : s.err = true) (c : ECode) : cmdFault c s = s := by
  rw [cmdFault, if_pos h, ← h]

/-- Settles O22: a recorded fault leaves the cipher alone, so a later command leaves the cipher it would have left
without the fault, and no command clears ERR. -/
theorem cmdFaultWritesOnlyErrAndEcode : Obligations.CmdFaultWritesOnlyErrAndEcode := by
  intro c s
  refine ⟨fun h => cmdFault_of_no_err h c, fun h => cmdFault_of_err h c, fun i => ?laterCommand⟩
  obtain ⟨t, u, ht, hu, hcipher⟩ := exec_sameCipher i (sameCipher_cmdFault c s)
  obtain ⟨herr, -⟩ := (exec_next_case hu).err_sticky (cmdFault_err c s)
  exact ⟨t, u, ht, hu, hcipher, herr⟩

end Sys2Proof.Machine

/-! The statements about reset and hazards (spec/70_reset_and_hazards.md): what a reset sets, that it alone clears the
fault record, that it wins over the command presented with it, and that there is no limit on GEN. -/

namespace Sys2Proof.Machine

/-! ## Only a reset clears the fault record -/

/-- From the first state to the second ERR is cleared, or ECODE goes from a cause to 0. -/
def clearsFaultRecord (s t : State) : Prop :=
  (s.err = true ∧ t.err = false) ∨ (s.ecode ≠ .noFault ∧ t.ecode = .noFault)

theorem not_clearsFaultRecord_of_eq {s t : State} (he : t.err = s.err) (hc : t.ecode = s.ecode) :
    ¬ clearsFaultRecord s t := by
  simp [clearsFaultRecord, he, hc]

/-- A recorded fault sets ERR, and leaves in ECODE either the old cause or its own (R232). -/
theorem not_clearsFaultRecord_cmdFault (s : State) {c : ECode} (hc : c ≠ .noFault) :
    ¬ clearsFaultRecord s (cmdFault c s) := by
  rintro (⟨-, herr⟩ | ⟨hne, hcode⟩)
  · exact absurd herr (by simp)
  · cases he : s.err with
    | false => exact hc (by simpa [he] using hcode)
    | true => exact hne ((cmdFault_ecode_of_err he c).symm.trans hcode)

/-- No command clears the fault record, LOAD included (R182, R260). -/
theorem ExecCase.not_clearsFaultRecord {i : Instr} {s t : State} (hc : ExecCase i s t) : ¬ clearsFaultRecord s t := by
  cases hc with
  | nop | load | initr | initf | gen => exact not_clearsFaultRecord_of_eq rfl rfl
  | initrFault | initfFault | genFault => exact not_clearsFaultRecord_cmdFault s nofun

theorem rst_of_clearsFaultRecord {s t : State} (ht : step s = .next t) (h : clearsFaultRecord s t) :
    ∃ b rest, s.inputs = b :: rest ∧ b.rst = true := by
  obtain ⟨-, hs⟩ | ⟨b, rest, hin, hr, -⟩ | ⟨_, _, _, u, -, -, -, hs, hc⟩ | ⟨_, rest, _, -, -, -, hs⟩ := step_cases s
  · cases hs.symm.trans ht
    exact absurd h (not_clearsFaultRecord_of_eq rfl rfl)
  · exact ⟨b, rest, hin, hr⟩
  · cases hs.symm.trans ht
    exact absurd h hc.not_clearsFaultRecord
  · cases hs.symm.trans ht
    exact absurd h (not_clearsFaultRecord_cmdFault { s with inputs := rest } nofun)

/-! ## The reset -/

/-- Settles O9: a step with RST asserted leaves the reset state, and no other step clears the fault record. -/
theorem resetSetsEveryRegister : Obligations.ResetSetsEveryRegister :=
  ⟨rfl, fun _ _ _ hin hr => step_of_reset hin hr, fun _ _ ht h => rst_of_clearsFaultRecord ht h⟩

/-- Settles O10: both steps leave the reset state, whatever the command, and the next command runs there. -/
theorem resetWinsOverTheCommand : Obligations.ResetWinsOverTheCommand := by
  intro s b b' rest hr hr'
  refine ⟨{ State.reset with inputs := rest }, step_of_reset rfl hr, step_of_reset rfl hr', rfl, rfl, ?nextCommand⟩
  case nextCommand =>
    rintro c rest' i rfl hc hd
    exact step_of_cmd rfl hc hd

/-! ## No limit on GEN -/

/-- GENs in READY leave RND, ERR, ECODE and what the host will present (R190). -/
theorem afterGens_frame (n : Nat) (s : State) :
    (afterGens n s).rnd = s.rnd ∧ (afterGens n s).err = s.err ∧ (afterGens n s).ecode = s.ecode ∧
      (afterGens n s).inputs = s.inputs := by
  induction n generalizing s with
  | zero => exact ⟨rfl, rfl, rfl, rfl⟩
  | succ n ih => exact ih (afterGen s)

/-- The last of one or more GENs sets ZV. -/
theorem afterGens_zv {n : Nat} (h : 0 < n) (s : State) : (afterGens n s).zv = true := by
  obtain ⟨m, rfl⟩ := Nat.exists_eq_add_one.2 h
  rw [afterGens_add]
  rfl

/-- Settles O44: the words and the state of n GENs, by induction on their number. -/
theorem anyNumberOfGenCompletes : Obligations.AnyNumberOfGenCompletes := by
  intro n s hs
  obtain ⟨hrnd, herr, hecode, hinputs⟩ := afterGens_frame n s
  exact ⟨genWords n s, afterGens n s, keystreamWords_of_ready n hs, hostGens_of_ready n hs,
    (afterGens_phase n s).trans hs, hrnd, herr, hecode, hinputs, fun hn => afterGens_zv hn s⟩

end Sys2Proof.Machine
